-- ==== Sys2Proof/Word.lean ====
section
/-!
DEFINITION. The words the TJ-448's ports and line carry, the masters and what is kept once per master, and the raw operand
layouts (R170, R171) that two commands carry.
-/

namespace Sys2Proof

/-- One byte, as a port or the line carries it. -/
abbrev Byte := BitVec 8

/-- A value that occupies two bytes, sent high byte first (R163). -/
abbrev Half := BitVec 16

/-- A buffer number, 0 to 95 (00_scope, Buffers and words). -/
abbrev BufferId := Fin 96

/-- A store word number, 0 to 3071 (R1). -/
abbrev WordNo := Fin 3072

/-- A rate code, 0 to 15 (R72). -/
abbrev RateCode := Fin 16

/-- A master, named by the letter of its port (00_scope, Masters and ports). -/
inductive Master where
  | a | b | c | d
deriving DecidableEq, Repr

namespace Master

/-- The port number, A = 0 to D = 3. -/
def number : Master → Nat
  | a => 0
  | b => 1
  | c => 2
  | d => 3

/-- The port number plus one, wrapping from 3 to 0 (R117). -/
def next : Master → Master
  | a => b
  | b => c
  | c => d
  | d => a

/-- The four masters in port order. -/
def all : List Master := [a, b, c, d]

/-- The four masters in port order starting at `m`, wrapping from 3 to 0 (R117). -/
def startingAt : Master → List Master
  | a => [a, b, c, d]
  | b => [b, c, d, a]
  | c => [c, d, a, b]
  | d => [d, a, b, c]

end Master

/-- One thing of each kind per master. -/
structure PerMaster (α : Type) where
  a : α
  b : α
  c : α
  d : α
deriving DecidableEq, Repr

namespace PerMaster

variable {α β : Type}

def get (p : PerMaster α) : Master → α
  | .a => p.a
  | .b => p.b
  | .c => p.c
  | .d => p.d

def set (p : PerMaster α) (m : Master) (v : α) : PerMaster α :=
  match m with
  | .a => { p with a := v }
  | .b => { p with b := v }
  | .c => { p with c := v }
  | .d => { p with d := v }

/-- The thing of master `m` changed by `f`, the other masters' as they were. -/
def modify (p : PerMaster α) (m : Master) (f : α → α) : PerMaster α :=
  p.set m (f (p.get m))

/-- The same rule for every master. -/
def tabulate (f : Master → α) : PerMaster α := ⟨f .a, f .b, f .c, f .d⟩

def map (f : α → β) (p : PerMaster α) : PerMaster β := tabulate fun m => f (p.get m)

def replicate (v : α) : PerMaster α := ⟨v, v, v, v⟩

end PerMaster

/-- A set of masters. -/
abbrev MasterSet := PerMaster Bool

namespace MasterSet

def empty : MasterSet := PerMaster.replicate false

def singleton (m : Master) : MasterSet := PerMaster.set empty m true

def insert (s : MasterSet) (m : Master) : MasterSet := PerMaster.set s m true

def erase (s : MasterSet) (m : Master) : MasterSet := PerMaster.set s m false

def isEmpty (s : MasterSet) : Bool := !(s.a || s.b || s.c || s.d)

end MasterSet

/-- The polarity of an edge on the SYNC input (R178). -/
inductive Edge where
  | rising | falling
deriving DecidableEq, Repr

/-- The 14 bytes of a shared settings record as LINE SET carries them (R170), before any range check. -/
structure SettingsBytes where
  rateMode : Byte
  fixedCode : Byte
  permitted : Half
  accessGap : Byte
  turnaround : Byte
  retryLimit : Byte
  tenureExponent : Byte
  silenceExponent : Byte
  holdExponent : Byte
  listenOnly : Byte
  sync : Byte
  receiveReserve : Byte
  patrol : Byte
deriving DecidableEq, Repr

/-- The four bytes of one order as SUBMIT carries them (R171), before any range check. -/
structure OrderBytes where
  code : Byte
  arg1 : Byte
  arg2 : Byte
  flags : Byte
deriving DecidableEq, Repr

end Sys2Proof
end

