-- ==== Sys2Proof/Config.lean ====
section
/-!
DEFINITION. What is fixed for the part: the capacities the spec gives its tables and queues, and the one value the spec
leaves to the physical array (a free value without a body).
-/

namespace Sys2Proof.Config

/-- Entries an inbound queue holds at most (R87). -/
def inboundCapacity : Nat := 16

/-- QUEUED jobs, RUNNING job and completion entries of one master together, at most (R113). -/
def jobCapacity : Nat := 8

/-- Orders one job begins at most (R119). -/
def stepLimit : Nat := 32

/-- Entries of the address table, at most (R30). -/
def tableCapacity : Nat := 16

/-- Entries of the damaged-word table, at most (R23). -/
def damagedCapacity : Nat := 16

/-- Entries of the hold list, at most (R140). -/
def holdCapacity : Nat := 8

/-- Consecutive bad frames at which a line UP in LEARN mode leaves UP (R81). -/
def badRunLimit : Nat := 8

/-- Bit times of one character time, ct (00_scope, Character time). -/
def bitsPerCt : Nat := 11

/-- The end gap, in ct (R48). -/
def endGap : Nat := 2

/-- The qualification window, in ct (R78). -/
def qualificationWindow : Nat := 512

/-- FREE VALUE (assumption log 3). Whether a store upset that reaches word `w` while the start-up clear runs falls after the
clearing write of `w` (R26). The spec gives neither the order in which the clear writes the words nor when within the 410 µs
it writes each; the first argument is a fresh number for each such upset. -/
opaque upsetAfterClearingWrite : Nat → Nat → Bool

end Sys2Proof.Config
end

