-- ==== Sys2Proof/Syntax.lean ====
section
/-!
DEFINITION. The steps of the TJ-448, one constructor per row of spec/opcode_table.json, in the table's order.

A row that is a command of a master's port carries the master of the port and the command's arguments as the bytes carry
them (R169); it is the event in which that command's last byte arrives and the command is taken (R163). A row that is an event
of the line, the store or a clock carries what the outside world brings with it.
-/

namespace Sys2Proof

inductive Instr where
  /-- RESET# asserted, or power applied (R26); `held` says whether RESET# is still low when the step ends
  (R162); written without it, the step is a whole pulse of RESET#. -/
  | powerOn (held : Bool := false)
  /-- The start-up clear ends (R26, R27). -/
  | startUpClearEnd
  /-- A store upset reaches one bit of word `word`: bits 0 to 63 are data bits (bit `8 i + k` is bit `k` of the word's byte
  `i`), bits 64 to 71 check bits (R1). -/
  | storeUpset (word : Nat) (bit : Fin 72)
  /-- The patrol visits the word at its index (R25). -/
  | patrolVisit
  /-- CS# of a port falls (R162). -/
  | csFalls (m : Master)
  /-- CS# of a port rises (R165). -/
  | csRises (m : Master)
  /-- A command code that names no command arrives as a transaction's first byte (R166). -/
  | unknownCommand (m : Master) (code : Byte)
  | ident (m : Master)
  | portSet (m : Master) (quota busyThreshold acceptBroadcast : Byte)
  | portGet (m : Master)
  | portReset (m : Master)
  | wantLine (m : Master)
  | unwantLine (m : Master)
  | lineSet (m : Master) (record : SettingsBytes)
  | lineGet (m : Master)
  | lineState (m : Master)
  | relearn (m : Master)
  | claim (m : Master) (address : Byte)
  | drop (m : Master) (address : Byte)
  | join (m : Master) (address : Byte)
  | leave (m : Master) (address : Byte)
  | tableRead (m : Master) (index : Byte)
  | alloc (m : Master)
  | free (m : Master) (buffer : Half)
  | adopt (m : Master) (buffer : Half)
  | write (m : Master) (buffer offset count : Half) (data : List Byte)
  | read (m : Master) (buffer offset count : Half)
  | scrub (m : Master) (buffer : Half)
  | storeStatus (m : Master)
  | submit (m : Master) (count : Byte) (orders : List OrderBytes)
  | cancel (m : Master) (tag : Byte)
  | takeCompletion (m : Master)
  | jobStatus (m : Master)
  | takeDelivery (m : Master)
  | notice (m : Master)
  | release (m : Master) (source : Byte)
  | mask (m : Master) (enables : Byte)
  | stats (m : Master)
  | time (m : Master)
  /-- A character with mark bit 1 arrives on RXD (R44): its data byte, whether its stop bit read 1, the durations, in
  REFCLK cycles, of the runs of equal level from the fall that begins its start bit on, low and high in turn, whatever character
  they belong to (R76), and for how many bit times RXD stays 0 after a stop bit that read 0 (R48). -/
  | addressCharacter (data : Byte) (stop : Bool) (runs : List Rat) (low : Nat := 0)
  /-- A character with mark bit 0 arrives on RXD; operands as for `addressCharacter`. -/
  | bodyCharacter (data : Byte) (stop : Bool) (runs : List Rat) (low : Nat := 0)
  | frameEnd
  | attemptBeginsSending
  | automaticBusyStart
  /-- The character being sent ends; `echo` is what RXD read in its 11 bit times, the start bit at bit 0 (R43, R53), and `low`
  for how many bit times RXD stays 0 after a stop bit that read 0 (R48). -/
  | characterSent (echo : BitVec 11) (low : Nat := 0)
  | deRelease
  | grant
  | responseTimerExpiry
  | waitTimerExpiry
  | tenureTimerExpiry
  | silenceTimeout
  | qualificationWindowExpiry
  | holdEntryExpiry
  /-- An edge on the SYNC input (R178). -/
  | syncEdge (edge : Edge)
  | timeBaseIncrement
  /-- A byte arrives on SDI (R162). -/
  | byteArrives (m : Master) (byte : Byte)
  | answerByteClockedOut (m : Master)
deriving DecidableEq, Repr

end Sys2Proof
end

