-- ==== Sys2Proof/Decode.lean ====
section
/-!
DEFINITION. Reading and writing the bytes of a command: the command code table and its argument bytes (R163, R169 to R171).
The opcode table gives none of its rows any bits, so `decodeTableWord` spells none; what decodes on this part is the byte
stream of a port, and `decodeCommand` and `commandBytes` are the two directions of it.
-/

namespace Sys2Proof

/-- A two-byte value from its bytes, high byte first (R163). -/
def halfOf (high low : Byte) : Half := BitVec.ofNat 16 (high.toNat * 256 + low.toNat)

/-- The bytes of a two-byte value, high byte first (R163). -/
def halfBytes (h : Half) : List Byte := [BitVec.ofNat 8 (h.toNat / 256), BitVec.ofNat 8 h.toNat]

/-- The data bytes that follow the six fixed argument bytes of WRITE, for its count (R163). -/
def writeDataLength (count : Half) : Nat :=
  if 1 ≤ count.toNat ∧ count.toNat ≤ 64 then count.toNat else 0

/-- The orders that follow the order count of SUBMIT (R163). -/
def submitOrderCount (count : Byte) : Nat :=
  if 1 ≤ count.toNat ∧ count.toNat ≤ 8 then count.toNat else 0

/-- How many argument bytes the command of `code` has when `args` are those that have arrived so far; absent for a code that
is not in the table of R169. Only WRITE and SUBMIT look at `args`: at the count their arguments carry (R163). -/
def expectedArguments (code : Byte) (args : List Byte) : Option Nat :=
  match code.toNat with
  | 0x01 => some 0
  | 0x02 => some 3
  | 0x03 => some 0
  | 0x04 => some 0
  | 0x10 => some 0
  | 0x11 => some 0
  | 0x12 => some 14
  | 0x13 => some 0
  | 0x14 => some 0
  | 0x15 => some 0
  | 0x20 => some 1
  | 0x21 => some 1
  | 0x22 => some 1
  | 0x23 => some 1
  | 0x24 => some 1
  | 0x30 => some 0
  | 0x31 => some 2
  | 0x32 => some 2
  | 0x33 => some (6 + writeDataLength (halfOf (args.getD 4 0) (args.getD 5 0)))
  | 0x34 => some 6
  | 0x35 => some 2
  | 0x36 => some 0
  | 0x40 => some (1 + 4 * submitOrderCount (args.getD 0 0))
  | 0x41 => some 1
  | 0x42 => some 0
  | 0x43 => some 0
  | 0x50 => some 0
  | 0x60 => some 0
  | 0x61 => some 1
  | 0x62 => some 1
  | 0x70 => some 0
  | 0x71 => some 0
  | _ => none

/-- Whether a byte is a command code of R169. -/
def isCommandCode (code : Byte) : Bool := (expectedArguments code []).isSome

/-- The order bytes of SUBMIT in groups of four, in order-index order (R171). -/
def ordersOfBytes : List Byte → List OrderBytes
  | code :: arg1 :: arg2 :: flags :: rest => ⟨code, arg1, arg2, flags⟩ :: ordersOfBytes rest
  | _ => []

def bytesOfOrder (o : OrderBytes) : List Byte := [o.code, o.arg1, o.arg2, o.flags]

/-- The 14 bytes of a shared settings record, in the order of R170. -/
def bytesOfSettings (r : SettingsBytes) : List Byte :=
  [r.rateMode, r.fixedCode] ++ halfBytes r.permitted ++
    [r.accessGap, r.turnaround, r.retryLimit, r.tenureExponent, r.silenceExponent, r.holdExponent, r.listenOnly, r.sync,
      r.receiveReserve, r.patrol]

def settingsOfBytes : List Byte → Option SettingsBytes
  | [mode, code, p1, p0, gap, turn, retry, tenure, silence, hold, listen, sync, reserve, patrol] =>
    some ⟨mode, code, halfOf p1 p0, gap, turn, retry, tenure, silence, hold, listen, sync, reserve, patrol⟩
  | _ => none

/-- The command that a code and its complete argument bytes name on port `m` (R169); none for a code that is not in the table
or arguments that are not complete. -/
def decodeCommand (m : Master) (code : Byte) (args : List Byte) : Option Instr :=
  if expectedArguments code args = some args.length then
    match code.toNat, args with
    | 0x01, [] => some (.ident m)
    | 0x02, [q, t, b] => some (.portSet m q t b)
    | 0x03, [] => some (.portGet m)
    | 0x04, [] => some (.portReset m)
    | 0x10, [] => some (.wantLine m)
    | 0x11, [] => some (.unwantLine m)
    | 0x12, bytes => (settingsOfBytes bytes).map (.lineSet m)
    | 0x13, [] => some (.lineGet m)
    | 0x14, [] => some (.lineState m)
    | 0x15, [] => some (.relearn m)
    | 0x20, [a] => some (.claim m a)
    | 0x21, [a] => some (.drop m a)
    | 0x22, [a] => some (.join m a)
    | 0x23, [a] => some (.leave m a)
    | 0x24, [i] => some (.tableRead m i)
    | 0x30, [] => some (.alloc m)
    | 0x31, [b1, b0] => some (.free m (halfOf b1 b0))
    | 0x32, [b1, b0] => some (.adopt m (halfOf b1 b0))
    | 0x33, b1 :: b0 :: o1 :: o0 :: c1 :: c0 :: data => some (.write m (halfOf b1 b0) (halfOf o1 o0) (halfOf c1 c0) data)
    | 0x34, [b1, b0, o1, o0, c1, c0] => some (.read m (halfOf b1 b0) (halfOf o1 o0) (halfOf c1 c0))
    | 0x35, [b1, b0] => some (.scrub m (halfOf b1 b0))
    | 0x36, [] => some (.storeStatus m)
    | 0x40, count :: rest => some (.submit m count (ordersOfBytes rest))
    | 0x41, [t] => some (.cancel m t)
    | 0x42, [] => some (.takeCompletion m)
    | 0x43, [] => some (.jobStatus m)
    | 0x50, [] => some (.takeDelivery m)
    | 0x60, [] => some (.notice m)
    | 0x61, [n] => some (.release m n)
    | 0x62, [e] => some (.mask m e)
    | 0x70, [] => some (.stats m)
    | 0x71, [] => some (.time m)
    | _, _ => none
  else none

/-- The port, the command code and the argument bytes of a step that is a command of a port (R169); none for every other
step. -/
def commandBytes : Instr → Option (Master × Byte × List Byte)
  | .ident m => some (m, 0x01, [])
  | .portSet m q t b => some (m, 0x02, [q, t, b])
  | .portGet m => some (m, 0x03, [])
  | .portReset m => some (m, 0x04, [])
  | .wantLine m => some (m, 0x10, [])
  | .unwantLine m => some (m, 0x11, [])
  | .lineSet m r => some (m, 0x12, bytesOfSettings r)
  | .lineGet m => some (m, 0x13, [])
  | .lineState m => some (m, 0x14, [])
  | .relearn m => some (m, 0x15, [])
  | .claim m a => some (m, 0x20, [a])
  | .drop m a => some (m, 0x21, [a])
  | .join m a => some (m, 0x22, [a])
  | .leave m a => some (m, 0x23, [a])
  | .tableRead m i => some (m, 0x24, [i])
  | .alloc m => some (m, 0x30, [])
  | .free m b => some (m, 0x31, halfBytes b)
  | .adopt m b => some (m, 0x32, halfBytes b)
  | .write m b o c data => some (m, 0x33, halfBytes b ++ halfBytes o ++ halfBytes c ++ data)
  | .read m b o c => some (m, 0x34, halfBytes b ++ halfBytes o ++ halfBytes c)
  | .scrub m b => some (m, 0x35, halfBytes b)
  | .storeStatus m => some (m, 0x36, [])
  | .submit m count orders => some (m, 0x40, count :: orders.flatMap bytesOfOrder)
  | .cancel m t => some (m, 0x41, [t])
  | .takeCompletion m => some (m, 0x42, [])
  | .jobStatus m => some (m, 0x43, [])
  | .takeDelivery m => some (m, 0x50, [])
  | .notice m => some (m, 0x60, [])
  | .release m n => some (m, 0x61, [n])
  | .mask m e => some (m, 0x62, [e])
  | .stats m => some (m, 0x70, [])
  | .time m => some (m, 0x71, [])
  | .powerOn _ => none
  | .startUpClearEnd => none
  | .storeUpset _ _ => none
  | .patrolVisit => none
  | .csFalls _ => none
  | .csRises _ => none
  | .unknownCommand _ _ => none
  | .addressCharacter _ _ _ _ => none
  | .bodyCharacter _ _ _ _ => none
  | .frameEnd => none
  | .attemptBeginsSending => none
  | .automaticBusyStart => none
  | .characterSent _ _ => none
  | .deRelease => none
  | .grant => none
  | .responseTimerExpiry => none
  | .waitTimerExpiry => none
  | .tenureTimerExpiry => none
  | .silenceTimeout => none
  | .qualificationWindowExpiry => none
  | .holdEntryExpiry => none
  | .syncEdge _ => none
  | .timeBaseIncrement => none
  | .byteArrives _ _ => none
  | .answerByteClockedOut _ => none

/-- The step that a word of the opcode table's bits spells: none, since the table gives no row any bits. -/
def decodeTableWord (_nbits _w : Nat) : Option Instr := none

end Sys2Proof
end

