-- ==== Sys2Proof/WellFormed.lean ====
section
/-!
DEFINITION. Which steps can occur at all: operands that no port, line or array could bring are ill-formed. What a command
does with an argument out of its range is no matter of this file: the spec gives that a status (BAD ARG, BAD BUFFER).
-/

namespace Sys2Proof

/-- The runs of R76: at least the low run that the fall of the start bit begins, and every run takes time. -/
def wellFormedRuns (runs : List Rat) : Bool :=
  !runs.isEmpty && runs.all fun d => decide (0 < d)

/-- RXD stays 0 after a character only where the stop bit read 0 (R43, R48). -/
def wellFormedLow (stop : Bool) (low : Nat) : Bool := !stop || low = 0

/-- The checks on a step's operands. -/
def WellFormed : Instr → Bool
  | .storeUpset w _ => decide (w < 3072)
  | .unknownCommand _ code => !isCommandCode code
  | .write _ _ _ count data => data.length = writeDataLength count
  | .submit _ count orders => orders.length = submitOrderCount count
  | .addressCharacter _ stop runs low => wellFormedLow stop low && wellFormedRuns runs
  | .bodyCharacter _ stop runs low => wellFormedLow stop low && wellFormedRuns runs
  | .characterSent echo low => wellFormedLow (echo.getLsbD 10) low
  | .powerOn _ => true
  | .startUpClearEnd => true
  | .patrolVisit => true
  | .csFalls _ => true
  | .csRises _ => true
  | .ident _ => true
  | .portSet _ _ _ _ => true
  | .portGet _ => true
  | .portReset _ => true
  | .wantLine _ => true
  | .unwantLine _ => true
  | .lineSet _ _ => true
  | .lineGet _ => true
  | .lineState _ => true
  | .relearn _ => true
  | .claim _ _ => true
  | .drop _ _ => true
  | .join _ _ => true
  | .leave _ _ => true
  | .tableRead _ _ => true
  | .alloc _ => true
  | .free _ _ => true
  | .adopt _ _ => true
  | .read _ _ _ _ => true
  | .scrub _ _ => true
  | .storeStatus _ => true
  | .cancel _ _ => true
  | .takeCompletion _ => true
  | .jobStatus _ => true
  | .takeDelivery _ => true
  | .notice _ => true
  | .release _ _ => true
  | .mask _ _ => true
  | .stats _ => true
  | .time _ => true
  | .frameEnd => true
  | .attemptBeginsSending => true
  | .automaticBusyStart => true
  | .deRelease => true
  | .grant => true
  | .responseTimerExpiry => true
  | .waitTimerExpiry => true
  | .tenureTimerExpiry => true
  | .silenceTimeout => true
  | .qualificationWindowExpiry => true
  | .holdEntryExpiry => true
  | .syncEdge _ => true
  | .timeBaseIncrement => true
  | .byteArrives _ _ => true
  | .answerByteClockedOut _ => true

end Sys2Proof
end

