-- ==== Sys2Proof/Machine/State.lean ====
section
/-!
DEFINITION. The state of the TJ-448, block by block as the spec's table of blocks lists them (00_scope), the reasons a step
can stop, and the state right after reset.
-/

namespace Sys2Proof.Machine

/-! ### The frame store (R1 to R28) -/

/-- A word that is not clean (R1). `double` is false for a single upset and true for a double upset; `flips` has a 1 at each of
the word's 64 data bits that stands otherwise than it was written. The store's memory holds the data as written. -/
structure Upset where
  word : WordNo
  double : Bool
  flips : BitVec 64
deriving DecidableEq, Repr

/-- A buffer's state with the fields present in it (R5). -/
inductive BufferState where
  | free
  | owned (owner : Master)
  | inJob (owner : Master) (job : Byte)
  | filling
  | delivered (pending holders : MasterSet)
  | quarantined
deriving DecidableEq, Repr

/-- A buffer record (R5). -/
structure BufferRecord where
  state : BufferState
  damaged : Bool
deriving DecidableEq, Repr

/-- The frame store. `mem` lists the bytes of the store that are not 0, by byte address (8 times the word number plus the byte
within the word), addresses strictly rising; an address it does not list reads 0, as the start-up clear leaves it (R26).
`upsets` lists the words that are not clean, word numbers strictly rising. -/
structure Store where
  mem : List Host.Cell
  upsets : List Upset
  buffers : Vector BufferRecord 96
  freeQueue : List BufferId
  damagedWords : List WordNo
  patrolIndex : WordNo
deriving DecidableEq, Repr

/-! ### The address table (R29 to R42) -/

/-- An address-table entry (R30). Its class follows from its address (R29). -/
structure TableEntry where
  address : Byte
  subscribers : MasterSet
deriving DecidableEq, Repr

/-! ### The line controller (R64 to R86) -/

inductive RateMode where
  | fixed | learn
deriving DecidableEq, Repr

inductive SyncMode where
  | off | rising | falling
deriving DecidableEq, Repr

/-- The shared settings record (R67). -/
structure Settings where
  rateMode : RateMode
  fixedCode : RateCode
  permitted : BitVec 16
  accessGap : Nat
  turnaround : Nat
  retryLimit : Nat
  tenureExponent : Nat
  silenceExponent : Nat
  holdExponent : Nat
  listenOnly : Bool
  sync : SyncMode
  receiveReserve : Nat
  patrol : Bool
deriving DecidableEq, Repr

/-- The line state, with what the line controller keeps in it and in no other (R74 to R81). Times are in bit times. -/
inductive LineState where
  | down
  /-- The sample run of the rate detector, in arrival order, each sample a bit time in REFCLK cycles (R76). -/
  | seek (run : List Rat)
  /-- The candidate code, the good-frame count and what is left of the qualification window (R78). -/
  | qualify (candidate : RateCode) (goodFrames : Nat) (window : Nat)
  /-- The silence timer, counting up (R80), and the bad-frame run (R81). -/
  | up (silence : Nat) (badRun : Nat)
deriving DecidableEq, Repr

/-- One master's copy of the latched line flags (R86). -/
structure LineFlags where
  upKept : Bool
  rateFault : Bool
  silent : Bool
  overflow : Bool
deriving DecidableEq, Repr

/-- The line controller. The two idle measurements of R48, in bit times: `access` is the time since the end of the last stop bit,
for the access gap, and `idle` the same for the end gap, which after a stop bit that read 0 begins only when RXD has returned to 1;
`low` is the time for which RXD still stays 0 before that. -/
structure Line where
  state : LineState
  want : MasterSet
  settings : Settings
  learned : RateCode
  flags : PerMaster LineFlags
  idle : Nat
  access : Nat
  low : Nat
deriving DecidableEq, Repr

/-! ### The receiver (R57 to R63) -/

/-- The receive errors, in the order in which a frame's error is sought (R60). -/
inductive ReceiveError where
  | framing | length | crc | source | kind
deriving DecidableEq, Repr

/-- The frame in progress (R57). `header` holds those of the bytes of positions 0 to 4 that have arrived; `matched` is absent
in SEEK and QUALIFY, where no lookup is made. -/
structure Frame where
  header : List Byte
  count : Nat
  crc : BitVec 16
  matched : Option Bool
  buffer : Option BufferId
  assembly : List Byte
  check : List Byte
  firstError : Option ReceiveError
deriving DecidableEq, Repr

/-! ### The transmitter (R50 to R56) -/

/-- A character as the transmitter sends it: its mark bit and its data byte (R43). -/
structure TxCharacter where
  mark : Bool
  data : Byte
deriving DecidableEq, Repr

/-- A SEND attempt that has been fetched and waits for access (R50): the transmitter's copy of the image, the attempt's backoff
in ct (R52), and whether its completion makes a loop-back copy (R54, R107). -/
structure Attempt where
  copy : List Byte
  backoff : Nat
  loopBack : Bool
deriving DecidableEq, Repr

/-- An automatic BUSY (R55). -/
structure AutoBusy where
  destination : Byte
  source : Byte
  sequence : Byte
deriving DecidableEq, Repr

/-- Whose frame is on the wire. -/
inductive Sender where
  | job (attempt : Attempt)
  | busy (reply : AutoBusy)
deriving DecidableEq, Repr

/-- The frame on the wire: whose it is, whether it has met a collision (R53), whether it has been cut (R56), and the turnaround
delay, in bit times, under which it began (R49, R69). -/
structure OnWire where
  sender : Sender
  collided : Bool
  cut : Bool
  delay : Nat
deriving DecidableEq, Repr

/-- What is on the wire. While a frame is sending, `rest` lists the characters not yet finished, the one in progress first; in
turnaround, `left` is what is left of the turnaround delay, in bit times (R49). -/
inductive Wire where
  | none
  | sending (frame : OnWire) (rest : List TxCharacter)
  | turnaround (frame : OnWire) (left : Nat)
deriving DecidableEq, Repr

/-- The transmitter: what is on the wire, the waiting attempt it holds, and the auto-response slot (R50, R55). -/
structure Transmitter where
  wire : Wire
  waiting : Option Attempt
  slot : Option AutoBusy
deriving DecidableEq, Repr

/-! ### The delivery unit (R87 to R111) -/

/-- The six frame kinds (R46). -/
inductive FrameKind where
  | data | request | reply | busy | hold | resume
deriving DecidableEq, Repr

/-- The five fields of a frame before its payload (R45). -/
structure Header where
  destination : Byte
  source : Byte
  kind : Byte
  sequence : Byte
  length : Byte
deriving DecidableEq, Repr

/-- A delivery entry (R88). -/
structure DeliveryEntry where
  buffer : BufferId
  header : Header
  timestamp : BitVec 32
  group : Bool
  late : Bool
  isLocal : Bool
deriving DecidableEq, Repr

/-- The destination, source and sequence of a SEND: what a late-reply record (R90) and the capture key (R92) hold. -/
structure SendKey where
  destination : Byte
  source : Byte
  sequence : Byte
deriving DecidableEq, Repr

structure Delivery where
  inbound : PerMaster (List DeliveryEntry)
  late : PerMaster (Option SendKey)
deriving DecidableEq, Repr

/-! ### The job engine (R112 to R139) -/

inductive Condition where
  | replied | busy | silent | notReplied
deriving DecidableEq, Repr

/-- The orders of a job (R114). Times are in ct. -/
inductive Order where
  | send (buffer : BufferId)
  | await (time : Nat)
  | branch (condition : Condition) (target : Nat)
  | wait (time : Nat)
  | finish
deriving DecidableEq, Repr

/-- An order with, for a SEND order, its cached header (R112, R115). -/
structure JobOrder where
  order : Order
  header : Option Header
deriving DecidableEq, Repr

inductive AwaitOutcome where
  | none | replied | busy | silent
deriving DecidableEq, Repr

inductive PendingEnd where
  | cancelled | tenureLimit
deriving DecidableEq, Repr

/-- The last SEND order of a job to complete (R112). -/
structure LastSend where
  kind : Byte
  key : SendKey
deriving DecidableEq, Repr

/-- A job record (R112). Its state is held by its place: QUEUED in an outbound queue, RUNNING in `Jobs.running`; a DONE job has
no record. -/
structure Job where
  master : Master
  tag : Byte
  orders : List JobOrder
  index : Nat
  steps : Nat
  retries : Nat
  lastSend : Option LastSend
  lastAwait : AwaitOutcome
  reply : Option BufferId
  pendingEnd : Option PendingEnd
deriving DecidableEq, Repr

/-- What the running job's order in progress is doing, with what exists for it alone: the buffer and cached header of a SEND that a
grant has made due and whose first attempt has not begun (R147; assumption log 17), the capture key (R92) and the response timer
(R123) of an AWAIT, the wait timer of a WAIT (R125). Times are in bit times. -/
inductive Doing where
  | due (buffer : BufferId) (header : Header)
  | send
  | await (key : SendKey) (response : Nat)
  | wait (remaining : Nat)
deriving DecidableEq, Repr

/-- The running job with its tenure timer, in bit times (R127). -/
structure Running where
  job : Job
  tenure : Nat
  doing : Doing
deriving DecidableEq, Repr

/-- The eleven job outcomes. -/
inductive JobOutcome where
  | ok | collided | storeError | notOwner | localTarget | held | orderError | stepLimit | tenureLimit | cancelled | lineLost
deriving DecidableEq, Repr

/-- A completion entry (R129). -/
structure Completion where
  tag : Byte
  outcome : JobOutcome
  failing : Option Nat
  steps : Nat
  lastAwait : AwaitOutcome
  reply : Option BufferId
  timestamp : BitVec 32
deriving DecidableEq, Repr

structure Jobs where
  outbound : PerMaster (List Job)
  running : Option Running
  completions : PerMaster (List Completion)
  tagCounter : PerMaster Byte
  pointer : Master
deriving DecidableEq, Repr

/-! ### The hold list (R140 to R149) -/

/-- A hold entry; the list's order is the addition order, the oldest first. The remaining time is in bit times (R140). -/
structure HoldEntry where
  station : Byte
  remaining : Nat
deriving DecidableEq, Repr

/-! ### The notice unit (R150 to R161) -/

inductive NoticeSource where
  | line | store | completion | delivery | missed
deriving DecidableEq, Repr

/-- One flag for each of a master's five notice sources. -/
structure PerSource where
  line : Bool
  store : Bool
  completion : Bool
  delivery : Bool
  missed : Bool
deriving DecidableEq, Repr

/-- One master's notice sources (R150). `active` lists those whose active flag is set, the most recently taken first. -/
structure Notices where
  enable : PerSource
  request : PerSource
  active : List NoticeSource
deriving DecidableEq, Repr

/-! ### The statistics block (R180 to R184) -/

/-- One master's copies of the nine counters (R180). -/
structure Counters where
  framesIn : Byte
  missed : Byte
  busySent : Byte
  noBuffer : Byte
  crcErrors : Byte
  formatErrors : Byte
  collisions : Byte
  corrected : Byte
  uncorrectable : Byte
deriving DecidableEq, Repr

/-! ### The master ports (R162 to R176) -/

/-- The transaction state of a port (R162), with the code and argument bytes that have arrived, or the bytes of the answer not
yet clocked out. -/
inductive Transaction where
  | deselected
  | code
  | arguments (code : Byte) (args : List Byte)
  | answer (left : List Byte)
  | spent
deriving DecidableEq, Repr

/-- A port settings record (R175). -/
structure PortSettings where
  quota : Nat
  busyThreshold : Nat
  acceptBroadcast : Bool
deriving DecidableEq, Repr

/-- A port: the level of its CS# input, its transaction and its settings record. -/
structure Port where
  csLow : Bool
  transaction : Transaction
  settings : PortSettings
deriving DecidableEq, Repr

/-! ### The whole part -/

/-- The state of the part. `resetLow` holds while RESET# is low (R162), and `clearing` until the start-up clear has ended (R26);
`fresh` is the model's own count of the free
values used (assumption log 3); `pending` is the queue of the steps that are waiting, the first to be taken first. -/
structure State where
  resetLow : Bool
  clearing : Bool
  store : Store
  table : List TableEntry
  line : Line
  receiver : Option Frame
  transmitter : Transmitter
  delivery : Delivery
  jobs : Jobs
  holds : List HoldEntry
  notices : PerMaster Notices
  counters : PerMaster Counters
  ports : PerMaster Port
  timeBase : BitVec 32
  fresh : Nat
  pending : List Instr
deriving DecidableEq, Repr

/-- Why a step stops with a fault. -/
inductive Fault where
  /-- Raised by STORE_UPSET for a word number of 3072 or more: the store has no such word (R1). Safe: no array can upset a word
  it does not have, and the step is ill-formed (`WellFormed`). -/
  | noSuchWord
deriving DecidableEq, Repr

/-- Why a step is refused. -/
inductive Refusal where
  /-- Raised by an arm of `exec` whose step has no meaning yet; no arm raises it. Safe: the machine stops. -/
  | notModelled (mnemonic : String)
deriving DecidableEq, Repr

/-! ### The state right after reset -/

/-- The shared settings record after power-on (R67). -/
def Settings.reset : Settings where
  rateMode := .fixed
  fixedCode := 11
  permitted := 0xFFFF
  accessGap := 6
  turnaround := 2
  retryLimit := 3
  tenureExponent := 12
  silenceExponent := 14
  holdExponent := 10
  listenOnly := false
  sync := .off
  receiveReserve := 8
  patrol := true

/-- The port settings record after power-on and after port reset (R175). -/
def PortSettings.reset : PortSettings := ⟨24, 12, true⟩

/-- The frame store after power-on (R27). -/
def Store.reset : Store where
  mem := []
  upsets := []
  buffers := Vector.replicate 96 ⟨.free, false⟩
  freeQueue := List.finRange 96
  damagedWords := []
  patrolIndex := 0

/-- The latched line flags after power-on and after port reset (R86). -/
def LineFlags.reset : LineFlags := ⟨false, false, false, false⟩

/-- The line controller after power-on (R64, R67, R73, R74). -/
def Line.reset : Line where
  state := .down
  want := MasterSet.empty
  settings := Settings.reset
  learned := 11
  flags := PerMaster.replicate LineFlags.reset
  idle := 0
  access := 0
  low := 0

/-- The transmitter after power-on (R50). -/
def Transmitter.reset : Transmitter := ⟨.none, none, none⟩

/-- The delivery unit after power-on (R87, R90). -/
def Delivery.reset : Delivery := ⟨PerMaster.replicate [], PerMaster.replicate none⟩

/-- The job engine after power-on (R113, R117). -/
def Jobs.reset : Jobs := ⟨PerMaster.replicate [], none, PerMaster.replicate [], PerMaster.replicate 0, .a⟩

/-- The same flag for every source. -/
def PerSource.replicate (v : Bool) : PerSource := ⟨v, v, v, v, v⟩

/-- A master's notice sources after power-on and after port reset: enable on, request and active clear (R150, R160). -/
def Notices.reset : Notices := ⟨PerSource.replicate true, PerSource.replicate false, []⟩

/-- A master's counter copies after power-on and after port reset (R180, R184). -/
def Counters.reset : Counters := ⟨0, 0, 0, 0, 0, 0, 0, 0, 0⟩

/-- A port after power-on (R162, R175), with CS# high (assumption log 2). -/
def Port.reset : Port := ⟨false, .deselected, PortSettings.reset⟩

/-- The part right after power-on, RESET# released and the start-up clear running (R26, R27; assumption log 1). -/
def State.reset : State where
  resetLow := false
  clearing := true
  store := Store.reset
  table := []
  line := Line.reset
  receiver := none
  transmitter := Transmitter.reset
  delivery := Delivery.reset
  jobs := Jobs.reset
  holds := []
  notices := PerMaster.replicate Notices.reset
  counters := PerMaster.replicate Counters.reset
  ports := PerMaster.replicate Port.reset
  timeBase := 0
  fresh := 0
  pending := []

end Sys2Proof.Machine
end

