-- ==== Sys2Proof/Machine/Flags.lean ====
section
/-!
DEFINITION. Every flag and count the part keeps and how it is set: the counter copies (R180, R181), the notice sources and
ATTN# (R150 to R153), the latched line flags (R86), sets of masters, and the check bytes of a frame (R47).
-/

namespace Sys2Proof.Machine

/-! ### Sets of masters -/

/-- The number of a set's byte: bit i is set for the master of port i (R169). -/
def masterSetByte (s : MasterSet) : Byte :=
  BitVec.ofNat 8 (s.a.toNat + 2 * s.b.toNat + 4 * s.c.toNat + 8 * s.d.toNat)

/-- The first master of a set in port order. -/
def firstMaster (s : MasterSet) : Option Master := Master.all.find? s.get

/-! ### Counters -/

inductive CounterName where
  | framesIn | missed | busySent | noBuffer | crcErrors | formatErrors | collisions | corrected | uncorrectable
deriving DecidableEq, Repr

/-- A counted event adds one to a copy below 255 and leaves a copy at 255 (R180). -/
def countUp (c : Byte) : Byte := if c = 255 then c else c + 1

def Counters.get (k : Counters) : CounterName → Byte
  | .framesIn => k.framesIn
  | .missed => k.missed
  | .busySent => k.busySent
  | .noBuffer => k.noBuffer
  | .crcErrors => k.crcErrors
  | .formatErrors => k.formatErrors
  | .collisions => k.collisions
  | .corrected => k.corrected
  | .uncorrectable => k.uncorrectable

def Counters.up (k : Counters) (n : CounterName) : Counters :=
  match n with
  | .framesIn => { k with framesIn := countUp k.framesIn }
  | .missed => { k with missed := countUp k.missed }
  | .busySent => { k with busySent := countUp k.busySent }
  | .noBuffer => { k with noBuffer := countUp k.noBuffer }
  | .crcErrors => { k with crcErrors := countUp k.crcErrors }
  | .formatErrors => { k with formatErrors := countUp k.formatErrors }
  | .collisions => { k with collisions := countUp k.collisions }
  | .corrected => { k with corrected := countUp k.corrected }
  | .uncorrectable => { k with uncorrectable := countUp k.uncorrectable }

/-- The nine values in the order of R169. -/
def Counters.bytes (k : Counters) : List Byte :=
  [k.framesIn, k.missed, k.busySent, k.noBuffer, k.crcErrors, k.formatErrors, k.collisions, k.corrected, k.uncorrectable]

/-- An event counted at each master of a set (R181). -/
def countIn (ms : MasterSet) (n : CounterName) (s : State) : State :=
  { s with counters := PerMaster.tabulate fun m => if ms.get m then (s.counters.get m).up n else s.counters.get m }

/-- An event counted at one master (R181). -/
def countAt (m : Master) (n : CounterName) (s : State) : State :=
  { s with counters := s.counters.modify m fun k => k.up n }

/-- An event counted in every copy (R181). -/
def countAll (n : CounterName) (s : State) : State :=
  { s with counters := s.counters.map fun k => k.up n }

/-! ### Notice sources -/

/-- A source's number, which is its priority: 1 the highest, 5 the lowest (R150). -/
def NoticeSource.number : NoticeSource → Nat
  | line => 1
  | store => 2
  | completion => 3
  | delivery => 4
  | missed => 5

/-- The five sources, the highest priority first. -/
def NoticeSource.all : List NoticeSource := [line, store, completion, delivery, missed]

/-- The source of a number (R156). -/
def NoticeSource.ofNumber (n : Nat) : Option NoticeSource := NoticeSource.all.find? fun s => s.number = n

def PerSource.get (p : PerSource) : NoticeSource → Bool
  | .line => p.line
  | .store => p.store
  | .completion => p.completion
  | .delivery => p.delivery
  | .missed => p.missed

def PerSource.set (p : PerSource) (s : NoticeSource) (v : Bool) : PerSource :=
  match s with
  | .line => { p with line := v }
  | .store => { p with store := v }
  | .completion => { p with completion := v }
  | .delivery => { p with delivery := v }
  | .missed => { p with missed := v }

/-- Whether a source may be taken: enabled, requested, and of higher priority than every active source (R152). -/
def Notices.takeable (n : Notices) (s : NoticeSource) : Bool :=
  n.enable.get s && n.request.get s && n.active.all fun t => s.number < t.number

/-- The highest-priority takeable source, if any (R154). -/
def Notices.next (n : Notices) : Option NoticeSource := NoticeSource.all.find? n.takeable

/-- A request set at a source, whatever it held (R151). -/
def Notices.raise (n : Notices) (s : NoticeSource) : Notices := { n with request := n.request.set s true }

/-- Taking a source: its active flag is set and its request cleared (R154). -/
def Notices.take (n : Notices) (s : NoticeSource) : Notices :=
  { n with request := n.request.set s false, active := s :: n.active }

/-- Releasing a source: its active flag is cleared (R156). -/
def Notices.drop (n : Notices) (s : NoticeSource) : Notices := { n with active := n.active.erase s }

/-- A notice request raised at one master (R151). -/
def raiseAt (m : Master) (src : NoticeSource) (s : State) : State :=
  { s with notices := s.notices.modify m fun n => n.raise src }

/-- A notice request raised at each master of a set (R151). -/
def raiseIn (ms : MasterSet) (src : NoticeSource) (s : State) : State :=
  { s with notices := PerMaster.tabulate fun m => if ms.get m then (s.notices.get m).raise src else s.notices.get m }

/-- A notice request raised at every master (R151). -/
def raiseAll (src : NoticeSource) (s : State) : State :=
  { s with notices := s.notices.map fun n => n.raise src }

/-- Whether the ATTN# output of a port is driven low (R153). -/
def attnLow (m : Master) (s : State) : Bool := NoticeSource.all.any (s.notices.get m).takeable

/-! ### Latched line flags -/

/-- A change to every master's copy of the line flags (R86). -/
def latchAll (f : LineFlags → LineFlags) (s : State) : State :=
  { s with line := { s.line with flags := s.line.flags.map f } }

/-- The byte of one master's line flags: UP-KEPT at bit 0 to OVERFLOW at bit 3 (R170). -/
def LineFlags.byte (f : LineFlags) : Byte :=
  BitVec.ofNat 8 (f.upKept.toNat + 2 * f.rateFault.toNat + 4 * f.silent.toNat + 8 * f.overflow.toNat)

/-! ### The check bytes of a frame -/

/-- One bit fed to the check register: generator x^16 + x^12 + x^5 + 1 (R47). -/
def crcBit (register : BitVec 16) (bit : Bool) : BitVec 16 :=
  if register.msb ^^ bit then (register <<< 1) ^^^ 0x1021 else register <<< 1

/-- One data byte fed to the check register, most significant bit first (R47). -/
def crcByte (register : BitVec 16) (data : Byte) : BitVec 16 :=
  ([7, 6, 5, 4, 3, 2, 1, 0] : List Nat).foldl (fun r k => crcBit r (data.getLsbD k)) register

/-- The check register's value before position 0 (R47). -/
def crcStart : BitVec 16 := 0xFFFF

/-- The check of a run of data bytes; there is no final inversion (R47). -/
def crcOf (bytes : List Byte) : BitVec 16 := bytes.foldl crcByte crcStart

end Sys2Proof.Machine
end

