-- ==== Sys2Proof/Machine/Ops.lean ====
section
/-!
DEFINITION. The named operations over the frame store and over line time: memory and word access through correction (R1 to R4,
R20 to R23), buffer claims (R6 to R9), and the passage of time on the line (R48, R123, R125, R127, R140, R78, R80).
-/

namespace Sys2Proof.Machine

/-! ### The bytes of the store -/

/-- The canonical form: addresses strictly rising, and no byte equal to what an unlisted address reads as. -/
def Memory.wf (mem : List Host.Cell) : Bool :=
  decide (mem.Pairwise fun x y => x.1 < y.1) && mem.all fun c => c.2 ≠ 0

/-- What a byte address reads as; an address not listed reads 0 (R26). -/
def Memory.read : List Host.Cell → Nat → Byte
  | [], _ => 0
  | (k, v) :: rest, a => if k = a then v else Memory.read rest a

/-- A byte written; the canonical form is kept. -/
def Memory.write : List Host.Cell → Nat → Byte → List Host.Cell
  | [], a, v => if v = 0 then [] else [(a, v)]
  | (k, w) :: rest, a, v =>
    if a < k then (if v = 0 then (k, w) :: rest else (a, v) :: (k, w) :: rest)
    else if a = k then (if v = 0 then rest else (a, v) :: rest)
    else (k, w) :: Memory.write rest a v

/-- Bytes written at consecutive addresses from `a`. -/
def Memory.writeBytes (mem : List Host.Cell) (a : Nat) : List Byte → List Host.Cell
  | [] => mem
  | v :: rest => Memory.writeBytes (Memory.write mem a v) (a + 1) rest

/-! ### Words and their condition -/

/-- The three conditions of a word (R1). -/
inductive WordCondition where
  | clean | singleUpset | doubleUpset
deriving DecidableEq, Repr

def Store.upsetAt (st : Store) (w : WordNo) : Option Upset := st.upsets.find? fun u => u.word = w

def Store.condition (st : Store) (w : WordNo) : WordCondition :=
  match st.upsetAt w with
  | none => .clean
  | some u => if u.double then .doubleUpset else .singleUpset

/-- An upset entry put in its place; there is none for its word before. -/
def insertUpset (u : Upset) : List Upset → List Upset
  | [] => [u]
  | v :: rest => if u.word < v.word then u :: v :: rest else v :: insertUpset u rest

def Store.clearUpset (st : Store) (w : WordNo) : Store :=
  { st with upsets := st.upsets.filter fun u => u.word ≠ w }

/-- A store upset moves a clean word to single upset and a single-upset word to double upset; a double-upset word stays double
upset (R1). `mask` marks the data bit that it changes; it is 0 for a check bit. -/
def Store.addUpset (st : Store) (w : WordNo) (mask : BitVec 64) : Store :=
  match st.upsetAt w with
  | none => { st with upsets := insertUpset ⟨w, false, mask⟩ st.upsets }
  | some u => { st with upsets := insertUpset ⟨w, true, u.flips ^^^ mask⟩ (st.clearUpset w).upsets }

/-- The bits of word byte `i` that stand otherwise than they were written. -/
def flippedByte (flips : BitVec 64) (i : Nat) : Byte := flips.extractLsb' (8 * i) 8

/-- The eight bytes of a word as they were written. -/
def Store.written (st : Store) (w : WordNo) : List Byte :=
  (List.range 8).map fun i => Memory.read st.mem (8 * w.val + i)

/-- The eight bytes of a word as they now stand (R1). -/
def Store.standing (st : Store) (w : WordNo) : List Byte :=
  match st.upsetAt w with
  | none => st.written w
  | some u => (List.range 8).map fun i => Memory.read st.mem (8 * w.val + i) ^^^ flippedByte u.flips i

/-- Eight bytes, filled out with zeros and no more than eight. -/
def padWord (bytes : List Byte) : List Byte := (List.range 8).map fun i => bytes.getD i 0

/-- A full-word write: eight bytes, and the word clean (R2). A shorter list is filled out with zeros (R2, last paragraph). -/
def Store.writeWord (st : Store) (w : WordNo) (bytes : List Byte) : Store :=
  { st with mem := Memory.writeBytes st.mem (8 * w.val) (padWord bytes),
            upsets := st.upsets.filter fun u => u.word ≠ w }

/-- The buffer in which a word lies (00_scope, Buffers and words). -/
def bufferOf (w : WordNo) : BufferId := ⟨w.val / 32, by omega⟩

/-- Word `k` of a buffer, `k` taken within 0 to 31 (00_scope, Buffers and words). -/
def wordOf (b : BufferId) (k : Nat) : WordNo := ⟨32 * b.val + k % 32, by omega⟩

/-! ### Buffer records -/

def Store.buffer (st : Store) (b : BufferId) : BufferRecord := st.buffers[b.val]

def Store.setBuffer (st : Store) (b : BufferId) (r : BufferRecord) : Store := { st with buffers := st.buffers.set b.val r }

/-- The state of a buffer changed, its damaged flag as it was (R6). -/
def Store.setState (st : Store) (b : BufferId) (v : BufferState) : Store :=
  st.setBuffer b { st.buffer b with state := v }

/-- Whether a buffer counts towards a master's usage: OWNED by it, or IN-JOB with it as owner (R10). -/
def BufferState.usedBy (m : Master) : BufferState → Bool
  | .owned o => o = m
  | .inJob o _ => o = m
  | _ => false

/-- A master's usage (R10). -/
def Store.usage (st : Store) (m : Master) : Nat :=
  ((List.finRange 96).filter fun b => (st.buffer b).state.usedBy m).length

/-- The number of QUARANTINED buffers (R24). -/
def Store.quarantined (st : Store) : Nat :=
  ((List.finRange 96).filter fun b => (st.buffer b).state = .quarantined).length

/-- A buffer leaves use: to the free tail, or to QUARANTINED if its damaged flag is set (R9). -/
def Store.leaveUse (st : Store) (b : BufferId) : Store :=
  if (st.buffer b).damaged then st.setState b .quarantined
  else { st.setState b .free with freeQueue := st.freeQueue ++ [b] }

/-- Several buffers leave use in one event, in the order given (R9). -/
def Store.leaveUseAll (st : Store) (bs : List BufferId) : Store := bs.foldl Store.leaveUse st

/-- The head of the free queue claimed and put in a state (R8). -/
def Store.claimHead (st : Store) (v : BufferState) : Option (BufferId × Store) :=
  match st.freeQueue with
  | [] => none
  | b :: rest => some (b, { st.setState b v with freeQueue := rest })

/-- The masters a finding on a buffer concerns (R22). -/
def BufferState.concerned : BufferState → MasterSet
  | .owned o => MasterSet.singleton o
  | .inJob o _ => MasterSet.singleton o
  | .delivered pending holders => PerMaster.tabulate fun m => pending.get m || holders.get m
  | _ => MasterSet.empty

/-- A FILLING buffer that is not kept leaves use (R6, "frame not kept"). -/
def leaveUse (b : Option BufferId) (s : State) : State :=
  match b with
  | none => s
  | some b => { s with store := s.store.leaveUse b }

/-! ### Reads through correction and their findings -/

/-- A correctable finding: the word is rewritten clean with the data as written, and CORRECTED is counted (R3, R20). -/
def correctableFinding (w : WordNo) (s : State) : State :=
  countAll .corrected { s with store := s.store.clearUpset w }

/-- A word offered to the damaged-word table (R23). -/
def offerDamaged (w : WordNo) (s : State) : State :=
  if w ∈ s.store.damagedWords then s
  else if s.store.damagedWords.length < Config.damagedCapacity then
    { s with store := { s.store with damagedWords := s.store.damagedWords ++ [w] } }
  else raiseAll .line (latchAll (fun f => { f with overflow := true }) s)

/-- An uncorrectable finding on a word, according to its buffer's state at that moment (R21, R22). -/
def uncorrectableFinding (w : WordNo) (s : State) : State :=
  let b := bufferOf w
  if (s.store.buffer b).state = .free then
    countAll .uncorrectable { s with store := s.store.writeWord w [] }
  else
    let s1 := { s with store := s.store.setBuffer b { s.store.buffer b with damaged := true } }
    countAll .uncorrectable (raiseIn (s.store.buffer b).state.concerned .store (offerDamaged w s1))

/-- A read through correction of one word: the bytes it returns, and the state after its finding (R3). -/
def readWord (w : WordNo) (s : State) : List Byte × State :=
  match s.store.condition w with
  | .clean => (s.store.written w, s)
  | .singleUpset => (s.store.written w, correctableFinding w s)
  | .doubleUpset => (s.store.standing w, uncorrectableFinding w s)

/-- Several words read in the order given, their bytes joined (R4). -/
def readWords : List WordNo → State → List Byte × State
  | [], s => ([], s)
  | w :: rest, s =>
    let r := readWord w s
    let q := readWords rest r.2
    (r.1 ++ q.1, q.2)

/-- The words from `first` to `last` of a buffer, in ascending order (R4). -/
def wordsOf (b : BufferId) (first last : Nat) : List WordNo :=
  (List.range (last + 1 - first)).map fun i => wordOf b (first + i)

/-- The image of a loop-back copy written into a buffer by full-word writes, the last word filled out with zeros (R107). -/
def Store.writeImage (st : Store) (b : BufferId) (k : Nat) (image : List Byte) : Store :=
  match image with
  | a0 :: a1 :: a2 :: a3 :: a4 :: a5 :: a6 :: a7 :: rest =>
    (st.writeWord (wordOf b k) [a0, a1, a2, a3, a4, a5, a6, a7]).writeImage b (k + 1) rest
  | [] => st
  | tail => st.writeWord (wordOf b k) tail

/-! ### Time on the line -/

/-- An idle measurement is held at this many bit times: no gap of R48 or R52 is longer than 15 + 16 ct. -/
def idleCap : Nat := (15 + 16) * Config.bitsPerCt

/-- The silence timeout, 2^s ct, in bit times (R80). -/
def silenceTimeout (st : Settings) : Nat := 2 ^ st.silenceExponent * Config.bitsPerCt

/-- The tenure limit, 2^k ct, in bit times (R127). -/
def tenureLimit (st : Settings) : Nat := 2 ^ st.tenureExponent * Config.bitsPerCt

/-- The hold time, 2^h ct, in bit times (R142). -/
def holdTime (st : Settings) : Nat := 2 ^ st.holdExponent * Config.bitsPerCt

/-- The line state after `n` bit times: the silence timer counts up in UP (R80), the qualification window down (R78). -/
def LineState.after (n : Nat) (timeout : Nat) : LineState → LineState
  | .down => .down
  | .seek run => .seek run
  | .qualify c g w => .qualify c g (w - n)
  | .up silence bad => .up (min timeout (silence + n)) bad

/-- The measurement of the end gap after `n` bit times: it begins when RXD has returned to 1, and it is not kept while the line is
DOWN (R48). -/
def Line.idleAfter (l : Line) (n : Nat) : Nat :=
  match l.state with
  | .down => l.idle
  | _ => min idleCap (l.idle + (n - l.low))

/-- The measurement of the access gap after `n` bit times: it begins at the end of the stop bit, and it is not kept while the line
is DOWN (R48). -/
def Line.accessAfter (l : Line) (n : Nat) : Nat :=
  match l.state with
  | .down => l.access
  | _ => min idleCap (l.access + n)

/-- What is on the wire after `n` bit times: a turnaround delay runs down (R49). -/
def Wire.after (n : Nat) : Wire → Wire
  | .turnaround f left => .turnaround f (left - n)
  | w => w

/-- What the order in progress is doing after `n` bit times (R123, R125). -/
def Doing.after (n : Nat) : Doing → Doing
  | .due b h => .due b h
  | .send => .send
  | .await key r => .await key (r - n)
  | .wait r => .wait (r - n)

/-- `n` bit times pass on the line: every line timer moves by `n` (assumption log 4). -/
def lineTime (n : Nat) (s : State) : State :=
  { s with
    line := { s.line with
      state := s.line.state.after n (silenceTimeout s.line.settings), idle := s.line.idleAfter n,
      access := s.line.accessAfter n, low := s.line.low - n },
    transmitter := { s.transmitter with wire := s.transmitter.wire.after n },
    jobs := { s.jobs with running := s.jobs.running.map fun r => { r with tenure := r.tenure - n, doing := r.doing.after n } },
    holds := s.holds.map fun e => { e with remaining := e.remaining - n } }

/-- The bit times still wanting until the end gap is met: until RXD is 1 again, and then what its measurement lacks (R48). -/
def endGapWait (s : State) : Nat := s.line.low + (Config.endGap * Config.bitsPerCt - s.line.idle)

/-- The end gap is met: as much time passes as is still wanting (R48). -/
def untilEndGap (s : State) : State := lineTime (endGapWait s) s

/-- The bit times still wanting until a waiting attempt's access gap and backoff are met, measured from the end of the last stop bit
(R48, R52). -/
def accessWait (a : Attempt) (s : State) : Nat := (s.line.settings.accessGap + a.backoff) * Config.bitsPerCt - s.line.access

/-- How long RXD stays 0 after a character: not at all after a stop bit that read 1 (R43, R48). -/
def lowAfter (stop : Bool) (low : Nat) : Nat := if stop then 0 else low

/-- A character has just ended on the line, after which RXD stays 0 for `low` bit times: both idle measurements start afresh
(R48). -/
def restartIdle (low : Nat) (s : State) : State :=
  match s.line.state with
  | .down => s
  | _ => { s with line := { s.line with idle := 0, access := 0, low := low } }

/-- A character report of R62: the silence timer of a line that is UP starts afresh (R80). -/
def reportCharacter (s : State) : State :=
  match s.line.state with
  | .up _ bad => { s with line := { s.line with state := .up 0 bad } }
  | _ => s

def LineState.isUp : LineState → Bool
  | .up _ _ => true
  | _ => false

def LineState.isSeek : LineState → Bool
  | .seek _ => true
  | _ => false

def LineState.isDown : LineState → Bool
  | .down => true
  | _ => false

/-- Whether DE is raised: while a frame is sending or in turnaround (R49, R50). -/
def Wire.deRaised : Wire → Bool
  | .none => false
  | _ => true

/-- The four transmitter states of R50. -/
inductive TransmitterState where
  | idle | waiting | sending | turnaround
deriving DecidableEq, Repr

def Transmitter.state (t : Transmitter) : TransmitterState :=
  match t.wire with
  | .sending _ _ => .sending
  | .turnaround _ _ => .turnaround
  | .none => if t.waiting.isSome then .waiting else .idle

/-- The driver-enable output (R49). -/
def deOutput (s : State) : Bool := s.transmitter.wire.deRaised

/-- The character on TXD; TXD is 1 while there is none (R43). -/
def txdOutput (s : State) : Option TxCharacter :=
  match s.transmitter.wire with
  | .sending _ (c :: _) => some c
  | _ => none

end Sys2Proof.Machine
end

