-- ==== Sys2Proof/Machine/Operands.lean ====
section
/-!
DEFINITION. Operand forms and result layouts: address classes (R29), frame kinds and headers (R45, R46), rates and samples (R72,
R76, R77), orders (R114, R171), the settings records (R170, R175), status codes (R168), the layouts of answers (R169 to R173),
and how a port takes a command and answers it (R162 to R167).
-/

namespace Sys2Proof.Machine

/-! ### Addresses -/

/-- 0x01 to 0xDF (R29). -/
def isUnicast (a : Byte) : Bool := 1 ≤ a.toNat && a.toNat ≤ 0xDF

/-- 0xE0 to 0xFE (R29). -/
def isGroup (a : Byte) : Bool := 0xE0 ≤ a.toNat && a.toNat ≤ 0xFE

/-- 0xFF (R29). -/
def isBroadcast (a : Byte) : Bool := a = 0xFF

/-- The table's entry for an address (R30). -/
def entryFor (table : List TableEntry) (a : Byte) : Option TableEntry := table.find? fun e => e.address = a

/-- The owner of a unicast address: the one subscriber of its entry (R30, R40). -/
def ownerOf (table : List TableEntry) (a : Byte) : Option Master :=
  if isUnicast a then (entryFor table a).bind fun e => firstMaster e.subscribers else none

/-- The masters whose accept broadcast is on (R38). -/
def broadcastAcceptors (s : State) : MasterSet := s.ports.map fun p => p.settings.acceptBroadcast

/-- The frame-end target set (R40). -/
def targetSet (s : State) (destination : Byte) : MasterSet :=
  if isBroadcast destination then broadcastAcceptors s
  else
    match entryFor s.table destination with
    | none => MasterSet.empty
    | some e => e.subscribers

/-- The capture key, present while an AWAIT is in progress (R92). -/
def captureKey (s : State) : Option SendKey :=
  match s.jobs.running with
  | some r =>
    match r.doing with
    | .await key _ => some key
    | _ => none
  | none => none

/-- The address-character lookup (R39), widened by the capture key (R92). -/
def addressMatches (s : State) (destination : Byte) : Bool :=
  if isBroadcast destination then !(broadcastAcceptors s).isEmpty
  else if destination = 0 then false
  else (entryFor s.table destination).isSome ||
    (match captureKey s with
      | some key => key.source = destination
      | none => false)

/-! ### Frames -/

/-- The kind a kind byte names (R46). -/
def FrameKind.ofByte (k : Byte) : Option FrameKind :=
  match k.toNat with
  | 0x10 => some .data
  | 0x20 => some .request
  | 0x30 => some .reply
  | 0x31 => some .busy
  | 0x40 => some .hold
  | 0x41 => some .resume
  | _ => none

/-- The kind byte of BUSY (R46, R55). -/
def busyKind : Byte := 0x31

/-- The header that the first five bytes of an image or of a received frame give (R45). -/
def headerOf (bytes : List Byte) : Header :=
  ⟨bytes.getD 0 0, bytes.getD 1 0, bytes.getD 2 0, bytes.getD 3 0, bytes.getD 4 0⟩

/-- A header that SUBMIT refuses as BAD FRAME (R115). -/
def Header.bad (h : Header) : Bool :=
  240 < h.length.toNat || (FrameKind.ofByte h.kind).isNone || h.destination = 0 || !isUnicast h.source

/-- The destination, source and sequence of a header. -/
def Header.key (h : Header) : SendKey := ⟨h.destination, h.source, h.sequence⟩

/-- A frame with header `h` answers a SEND with key `k`: it comes back to the SEND's source from its destination, with its
sequence (R93, R95). -/
def Header.answers (h : Header) (k : SendKey) : Bool :=
  h.destination = k.source && h.source = k.destination && h.sequence = k.sequence

/-- The eleven bits of a character in the order of their bit times, the start bit at bit 0 (R43). -/
def TxCharacter.bits (c : TxCharacter) : BitVec 11 :=
  BitVec.ofNat 11 (2 * c.data.toNat + 512 * c.mark.toNat + 1024)

/-- The characters of a frame: position 0 with mark bit 1, the rest of the image, and the two check bytes, high byte first,
with mark bit 0 (R45, R47, R53). -/
def frameCharacters (image : List Byte) : List TxCharacter :=
  match image ++ halfBytes (crcOf image) with
  | [] => []
  | first :: rest => ⟨true, first⟩ :: rest.map fun d => ⟨false, d⟩

/-- The image of an automatic BUSY (R55). -/
def AutoBusy.image (b : AutoBusy) : List Byte := [b.destination, b.source, busyKind, b.sequence, 0]

/-! ### Rates and samples -/

/-- The bit rate of a code, in bit/s (R72). -/
def rateOf (c : RateCode) : Rat :=
  if c.val < 8 then 1000000 * ((c.val + 1 : Nat) : Rat) / 8 else 1000000 / ((c.val - 8 + 1 : Nat) : Rat)

/-- The greatest duration of which two durations are whole multiples; that of a duration and 0 is the duration. -/
def commonMeasure (x y : Rat) : Rat :=
  ((Nat.gcd (x.num.natAbs * y.den) (y.num.natAbs * x.den) : Nat) : Rat) / ((x.den * y.den : Nat) : Rat)

/-- The greatest duration of which every one of some intervals is a whole multiple (R76). -/
def measureOf (intervals : List Rat) : Rat := intervals.foldl commonMeasure 0

/-- The runs of level that a rise ends, counted from the fall that begins the start bit: the first one, the first three, the
first five and so on. -/
def risePrefixes (runs : List Rat) : List (List Rat) :=
  (List.range ((runs.length + 1) / 2)).map fun i => runs.take (2 * i + 1)

/-- The runs that belong to the character: up to the last rise that lies within 11 bit times of the fall that begins the start
bit, the bit time being the one that these very runs give (R76; assumption log 12). -/
def characterRuns (runs : List Rat) : List Rat :=
  ((risePrefixes runs).filter fun p => decide (p.sum ≤ 11 * measureOf p)).getLastD []

/-- The sample that a character's level changes give, a bit time in REFCLK cycles; a single low run gives none, an unusable
sample (R76). -/
def sampleOf (runs : List Rat) : Option Rat :=
  match characterRuns runs with
  | [] => none
  | [_] => none
  | counted => some (measureOf counted)

/-- The mean of a run of samples. -/
def meanOf (run : List Rat) : Rat := run.sum / ((run.length : Nat) : Rat)

/-- Whether every member of a sample run lies within 2% of the run's mean (R76). -/
def samplesAgree (run : List Rat) : Bool :=
  run.all fun x => decide (49 * meanOf run ≤ 50 * x ∧ 50 * x ≤ 51 * meanOf run)

/-- The members of a complete measurement (R76). -/
def measurementLength : Nat := 8

/-- REFCLK, in cycles per second. -/
def refclk : Rat := 16000000

/-- The rate that a complete measurement gives, in bit/s: the reciprocal of the mean of its bit times (R76). -/
def measuredRate (run : List Rat) : Rat := refclk / meanOf run

/-- Whether a measured rate differs from a code's rate by at most 3% of the code's rate (R77). -/
def measurementMatches (run : List Rat) (c : RateCode) : Bool :=
  decide (97 * rateOf c ≤ 100 * measuredRate run ∧ 100 * measuredRate run ≤ 103 * rateOf c)

/-- The codes whose rate a measurement matches, lowest first (R77). -/
def matchedCodes (run : List Rat) : List RateCode := (List.finRange 16).filter (measurementMatches run)

/-- The applied code (R73). -/
def Line.appliedCode (l : Line) : RateCode :=
  match l.state with
  | .qualify candidate _ _ => candidate
  | .seek _ => l.learned
  | .down => if l.settings.rateMode = .fixed then l.settings.fixedCode else l.learned
  | .up _ _ => if l.settings.rateMode = .fixed then l.settings.fixedCode else l.learned

/-! ### Orders -/

/-- What SUBMIT finds in one order's bytes (R114 steps 1 and 2, R171). -/
inductive ParsedOrder where
  | badArg
  | badBuffer
  | ok (order : Order)
deriving DecidableEq, Repr

def conditionOf (b : Byte) : Option Condition :=
  match b.toNat with
  | 1 => some .replied
  | 2 => some .busy
  | 3 => some .silent
  | 4 => some .notReplied
  | _ => none

def parseOrder (o : OrderBytes) : ParsedOrder :=
  let value := (halfOf o.arg1 o.arg2).toNat
  if o.flags ≠ 0 then .badArg
  else
    match o.code.toNat with
    | 0x01 => if h : value < 96 then .ok (.send ⟨value, h⟩) else .badBuffer
    | 0x02 => if 8 ≤ value ∧ value ≤ 4095 then .ok (.await value) else .badArg
    | 0x03 =>
      match conditionOf o.arg1 with
      | none => .badArg
      | some c => if o.arg2.toNat ≤ 7 then .ok (.branch c o.arg2.toNat) else .badArg
    | 0x04 => if 1 ≤ value ∧ value ≤ 4095 then .ok (.wait value) else .badArg
    | 0x05 => if value = 0 then .ok .finish else .badArg
    | _ => .badArg

def ParsedOrder.order? : ParsedOrder → Option Order
  | .ok o => some o
  | _ => none

def Order.buffer? : Order → Option BufferId
  | .send b => some b
  | _ => none

/-- Whether a BRANCH condition is met by a last AWAIT outcome (R124). -/
def Condition.met : Condition → AwaitOutcome → Bool
  | .replied, o => o = .replied
  | .busy, o => o = .busy
  | .silent, o => o = .silent
  | .notReplied, o => o ≠ .replied

/-! ### Settings records -/

/-- A value that must lie in a range. -/
def ranged (lo hi : Nat) (b : Byte) : Option Nat := if lo ≤ b.toNat ∧ b.toNat ≤ hi then some b.toNat else none

def rateModeOf (b : Byte) : Option RateMode :=
  match b.toNat with
  | 0 => some .fixed
  | 1 => some .learn
  | _ => none

def syncModeOf (b : Byte) : Option SyncMode :=
  match b.toNat with
  | 0 => some .off
  | 1 => some .rising
  | 2 => some .falling
  | _ => none

/-- An on/off field (R169). -/
def onOff (b : Byte) : Option Bool :=
  match b.toNat with
  | 0 => some false
  | 1 => some true
  | _ => none

/-- The shared settings record that LINE SET's bytes give, or none when the record is refused with BAD ARG by R68 steps 1 and
2 (R67, R170). -/
def settingsOf (r : SettingsBytes) : Option Settings := do
  let rateMode ← rateModeOf r.rateMode
  let fixedCode ← if h : r.fixedCode.toNat < 16 then some (⟨r.fixedCode.toNat, h⟩ : RateCode) else none
  let accessGap ← ranged 4 15 r.accessGap
  let turnaround ← ranged 0 15 r.turnaround
  let retryLimit ← ranged 0 7 r.retryLimit
  let tenureExponent ← ranged 6 16 r.tenureExponent
  let silenceExponent ← ranged 8 20 r.silenceExponent
  let holdExponent ← ranged 6 16 r.holdExponent
  let listenOnly ← onOff r.listenOnly
  let sync ← syncModeOf r.sync
  let receiveReserve ← ranged 0 32 r.receiveReserve
  let patrol ← onOff r.patrol
  if rateMode = .learn ∧ r.permitted = 0 then none
  else some ⟨rateMode, fixedCode, r.permitted, accessGap, turnaround, retryLimit, tenureExponent, silenceExponent,
    holdExponent, listenOnly, sync, receiveReserve, patrol⟩

def RateMode.byte : RateMode → Byte
  | fixed => 0
  | learn => 1

def SyncMode.byte : SyncMode → Byte
  | off => 0
  | rising => 1
  | falling => 2

def boolByte (b : Bool) : Byte := if b then 1 else 0

def natByte (n : Nat) : Byte := BitVec.ofNat 8 n

/-- The bytes of a shared settings record (R170). -/
def Settings.toBytes (r : Settings) : SettingsBytes :=
  ⟨r.rateMode.byte, natByte r.fixedCode.val, r.permitted, natByte r.accessGap, natByte r.turnaround, natByte r.retryLimit,
    natByte r.tenureExponent, natByte r.silenceExponent, natByte r.holdExponent, boolByte r.listenOnly, r.sync.byte,
    natByte r.receiveReserve, boolByte r.patrol⟩

/-- The port settings record that PORT SET's bytes give, or none when it is refused with BAD ARG (R175). -/
def portSettingsOf (quota busyThreshold acceptBroadcast : Byte) : Option PortSettings := do
  let q ← ranged 1 96 quota
  let t ← ranged 1 16 busyThreshold
  let b ← onOff acceptBroadcast
  some ⟨q, t, b⟩

/-! ### Status codes and results -/

/-- The status codes of R168. -/
inductive Status where
  | ok | empty | full | badArg | badBuffer | notYours | claimed | notFound | lineInUse | noBuffer | notActive | damaged
  | badFrame | notReady | unknownCommand
deriving DecidableEq, Repr

def Status.code : Status → Byte
  | ok => 0x00
  | empty => 0x01
  | full => 0x02
  | badArg => 0x03
  | badBuffer => 0x04
  | notYours => 0x05
  | claimed => 0x06
  | notFound => 0x07
  | lineInUse => 0x08
  | noBuffer => 0x09
  | notActive => 0x0A
  | damaged => 0x0B
  | badFrame => 0x0C
  | notReady => 0x0D
  | unknownCommand => 0x0E

/-- What taking a command gives: its status, its result bytes (none with a refusal), and the state once it has acted. -/
structure Reply where
  status : Status
  results : List Byte
  state : State
deriving DecidableEq, Repr

/-- A refusal: no effect apart from the status (00_scope, Refusal). -/
def refuse (status : Status) (s : State) : Reply := ⟨status, [], s⟩

/-- The bytes of an answer: the turnaround byte, the status byte and the results (R164). -/
def answerBytes (status : Status) (results : List Byte) : List Byte := 0x00 :: status.code :: results

/-- A line state's byte (R169). -/
def LineState.byte : LineState → Byte
  | .down => 0
  | .seek _ => 1
  | .qualify _ _ _ => 2
  | .up _ _ => 3

/-- A buffer number in two bytes, or 0xFFFF when absent (R173). -/
def bufferBytes : Option BufferId → List Byte
  | some b => halfBytes (BitVec.ofNat 16 b.val)
  | none => [0xFF, 0xFF]

/-- A time-base value in four bytes, high byte first (R172, R179). -/
def timeBytes (t : BitVec 32) : List Byte :=
  [BitVec.ofNat 8 (t.toNat / 2 ^ 24), BitVec.ofNat 8 (t.toNat / 2 ^ 16), BitVec.ofNat 8 (t.toNat / 2 ^ 8), BitVec.ofNat 8 t.toNat]

/-- The delivery entry of TAKE DELIVERY (R172). -/
def DeliveryEntry.bytes (e : DeliveryEntry) : List Byte :=
  bufferBytes (some e.buffer) ++
    [e.header.kind, e.header.source, e.header.destination, e.header.sequence, e.header.length] ++
    timeBytes e.timestamp ++ [BitVec.ofNat 8 (e.group.toNat + 2 * e.late.toNat + 4 * e.isLocal.toNat)]

def JobOutcome.byte : JobOutcome → Byte
  | ok => 0
  | collided => 1
  | storeError => 2
  | notOwner => 3
  | localTarget => 4
  | held => 5
  | orderError => 6
  | stepLimit => 7
  | tenureLimit => 8
  | cancelled => 9
  | lineLost => 10

def AwaitOutcome.byte : AwaitOutcome → Byte
  | none => 0
  | replied => 1
  | busy => 2
  | silent => 3

/-- The completion entry of TAKE COMPLETION (R173). -/
def Completion.bytes (c : Completion) : List Byte :=
  [c.tag, c.outcome.byte, (match c.failing with | some i => natByte i | none => 0xFF), natByte c.steps, c.lastAwait.byte] ++
    bufferBytes c.reply ++ timeBytes c.timestamp

/-- The response timer's remaining time in whole ct, or 0xFFFF when no AWAIT is in progress (R123). -/
def responseTimerValue (s : State) : Half :=
  match s.jobs.running with
  | some r =>
    match r.doing with
    | .await _ remaining => BitVec.ofNat 16 (remaining / Config.bitsPerCt)
    | _ => 0xFFFF
  | none => 0xFFFF

/-! ### What a port awaits -/

/-- The bytes of the transaction in progress that have arrived, while the port is in CODE or ARGUMENTS (R162). -/
def Transaction.received : Transaction → Option (List Byte)
  | .code => some []
  | .arguments first args => some (first :: args)
  | _ => none

def setTransaction (m : Master) (t : Transaction) (s : State) : State :=
  { s with ports := s.ports.modify m fun p => { p with transaction := t } }

/-- Whether the last of a command's bytes can be the next thing to happen on a port: the port is in CODE or ARGUMENTS, what
has arrived is the beginning of the command and not all of it, and its arguments are complete (R163; assumption log 5). -/
def awaits (p : Port) (code : Byte) (args : List Byte) : Bool :=
  match p.transaction.received with
  | none => false
  | some got =>
    got.isPrefixOf (code :: args) && got.length < args.length + 1 && expectedArguments code args = some args.length

/-- The byte on SDO; none while it is high-impedance (R162, R164). -/
def sdoOutput (m : Master) (s : State) : Option Byte :=
  match (s.ports.get m).transaction with
  | .deselected => none
  | .code => some 0x00
  | .arguments _ _ => some 0x00
  | .answer [] => some 0xFF
  | .answer (b :: _) => some b
  | .spent => some 0xFF

end Sys2Proof.Machine
end

