-- ==== Sys2Proof/Machine/JobEngine.lean ====
section
/-!
DEFINITION. The shared operations of the job engine: how a job ends (R128, R129, R122), how an attempt of a SEND order begins
(R120, R41, R51, R148), how an order that is due is judged and begun (R119 to R126), how CANCEL and tenure expiry meet the
running job (R127, R133, R134), and how a port takes a command (R163, R164).
-/

namespace Sys2Proof.Machine

def setRunning (r : Option Running) (s : State) : State := { s with jobs := { s.jobs with running := r } }

/-- Every buffer IN-JOB of a job returns to OWNED by the job's master (R6, R128). -/
def Store.returnJob (st : Store) (m : Master) (tag : Byte) : Store :=
  { st with buffers := st.buffers.map fun r => if r.state = .inJob m tag then { r with state := .owned m } else r }

/-- A completion entry appended to its master's completion queue, with the COMPLETION request (R128, R132). -/
def complete (m : Master) (c : Completion) (s : State) : State :=
  raiseAt m .completion { s with jobs := { s.jobs with completions := s.jobs.completions.modify m (· ++ [c]) } }

/-- The end of the running job (R128, R129). -/
def endJob (outcome : JobOutcome) (failing : Option Nat) (s : State) : State :=
  match s.jobs.running with
  | none => s
  | some r =>
    let j := r.job
    complete j.master ⟨j.tag, outcome, failing, j.steps, j.lastAwait, j.reply, s.timeBase⟩
      (setRunning none { s with store := s.store.returnJob j.master j.tag })

/-- An AWAIT in progress ends SILENT: the outcome is recorded and the late-reply record of the job's master is set (R90, R122).
With no AWAIT in progress nothing changes. -/
def silenceAwait (s : State) : State :=
  match s.jobs.running with
  | some r =>
    match r.doing with
    | .await key _ =>
      { setRunning (some { r with job := { r.job with lastAwait := .silent }, doing := .send }) s with
        delivery := { s.delivery with late := s.delivery.late.set r.job.master (some key) } }
    | _ => s
  | none => s

/-- The outcome of a pending end (R134). -/
def PendingEnd.outcome : PendingEnd → JobOutcome
  | cancelled => .cancelled
  | tenureLimit => .tenureLimit

/-- The waiting attempt withdrawn or cut: its copy is discarded with no character of it sent (R56, R127). -/
def dropWaiting (s : State) : State := { s with transmitter := { s.transmitter with waiting := none } }

/-- What CANCEL and tenure expiry do to the running job, according to what it is doing (R127, R133, R134). -/
def endInProgress (p : PendingEnd) (s : State) : State :=
  match s.jobs.running with
  | none => s
  | some r =>
    match r.doing with
    | .due _ _ => endJob p.outcome (some r.job.index) s
    | .await _ _ => endJob p.outcome (some r.job.index) (silenceAwait s)
    | .wait _ => endJob p.outcome (some r.job.index) s
    | .send =>
      if s.transmitter.waiting.isSome then endJob p.outcome (some r.job.index) (dropWaiting s)
      else setRunning (some { r with job := { r.job with pendingEnd := r.job.pendingEnd.orElse fun _ => some p } }) s

/-- The running job ends because the line leaves UP (R134, R135). -/
def lineLost (s : State) : State :=
  match s.jobs.running with
  | none => s
  | some r =>
    let outcome := match r.job.pendingEnd with
      | some p => p.outcome
      | none => .lineLost
    endJob outcome (some r.job.index) (silenceAwait s)

/-- What the destination check of R41 finds for a SEND by master `m`: whether the attempt fails LOCAL TARGET, and whether its
completion makes a loop-back copy. -/
inductive DestinationCheck where
  | localTarget
  | sent (loopBack : Bool)
deriving DecidableEq, Repr

def destinationCheck (table : List TableEntry) (m : Master) (h : Header) : DestinationCheck :=
  let isData := FrameKind.ofByte h.kind = some .data
  if isUnicast h.destination then
    match ownerOf table h.destination with
    | none => .sent false
    | some o => if o = m then .localTarget else if isData then .sent true else .localTarget
  else .sent isData

/-- Whether a station stands in the hold list (R148). -/
def isHeld (holds : List HoldEntry) (station : Byte) : Bool := holds.any fun e => e.station = station

/-- The backoff of an attempt, in ct: none for the first, (s mod 8 + 1) × 2 for every later one (R52). -/
def backoffOf (h : Header) (retries : Nat) : Nat := if retries = 0 then 0 else (h.source.toNat % 8 + 1) * 2

/-- An attempt of the running job's SEND order begins: the checks of R120 in their order, the first that fails ending the job,
and the transmit fetch of R51. -/
def beginAttempt (r : Running) (b : BufferId) (h : Header) (s : State) : State :=
  let failing := some r.job.index
  if ownerOf s.table h.source ≠ some r.job.master then endJob .notOwner failing s
  else
    match destinationCheck s.table r.job.master h with
    | .localTarget => endJob .localTarget failing s
    | .sent loopBack =>
      if isHeld s.holds h.destination then endJob .held failing s
      else
        let fetched := readWords (wordsOf b 0 ((4 + h.length.toNat) / 8)) s
        if (fetched.2.store.buffer b).damaged then endJob .storeError failing fetched.2
        else
          { fetched.2 with transmitter := { fetched.2.transmitter with
              waiting := some ⟨fetched.1.take (5 + h.length.toNat), backoffOf h r.job.retries, loopBack⟩ } }

/-- The next order of the running job is due: it is judged for ORDER ERROR and STEP LIMIT and begun if neither applies (R119). A SEND
is left before its first attempt. BRANCH and END take no time, so the next order is due at once; each order begun raises the step
count, so no run of them is longer than the step limit, which `fuel` counts down from. -/
def orderReached : Nat → State → State
  | 0, s => s
  | fuel + 1, s =>
    match s.jobs.running with
    | none => s
    | some r =>
      let j := r.job
      match j.orders[j.index]? with
      | none => endJob .orderError (some j.index) s
      | some o =>
        if Config.stepLimit ≤ j.steps then endJob .stepLimit (some j.index) s
        else
          let begun := { j with steps := j.steps + 1 }
          match o.order with
          | .send b =>
            setRunning (some { r with job := { begun with retries := 0 }, doing := .due b (o.header.getD (headerOf [])) }) s
          | .await t =>
            match (if (j.lastSend.bind fun l => FrameKind.ofByte l.kind) = some .request then j.lastSend else none) with
            | none => endJob .orderError (some j.index) (setRunning (some { r with job := begun }) s)
            | some last =>
              { setRunning (some { r with job := begun, doing := .await last.key (t * Config.bitsPerCt) }) s with
                delivery := { s.delivery with late := s.delivery.late.set j.master none } }
          | .branch condition target =>
            let index := if condition.met j.lastAwait then target else j.index + 1
            orderReached fuel (setRunning (some { r with job := { begun with index := index } }) s)
          | .wait t => setRunning (some { r with job := begun, doing := .wait (t * Config.bitsPerCt) }) s
          | .finish => endJob .ok none (setRunning (some { r with job := begun }) s)

/-- A SEND whose first attempt has not begun begins it, with its checks; with no such SEND nothing changes (R120, R147). -/
def takeAttempt (s : State) : State :=
  match s.jobs.running with
  | none => s
  | some r =>
    match r.doing with
    | .due b h => beginAttempt { r with doing := .send } b h (setRunning (some { r with doing := .send }) s)
    | _ => s

/-- The next order of the running job is due, and a SEND begins its first attempt in the same event (R119, R120). -/
def orderDue (fuel : Nat) (s : State) : State := takeAttempt (orderReached fuel s)

/-- Enough for every run of BRANCH orders: one more than the step limit. -/
def orderFuel : Nat := Config.stepLimit + 1

/-- The order in progress has finished: the order index increases by one and the next order is due (R121, R122, R125). -/
def nextOrder (s : State) : State :=
  match s.jobs.running with
  | none => s
  | some r => orderDue orderFuel (setRunning (some { r with job := { r.job with index := r.job.index + 1 } }) s)

/-- The cached destination of a SEND order (R115, R118). -/
def JobOrder.destination? : JobOrder → Option Byte
  | ⟨.send _, some h⟩ => some h.destination
  | _ => none

/-- The first SEND order's cached destination, if the job has a SEND order (R118). -/
def Job.firstDestination (j : Job) : Option Byte := j.orders.findSome? JobOrder.destination?

/-- Whether the job at the head of an outbound queue is eligible (R118). -/
def eligible (holds : List HoldEntry) (j : Job) : Bool :=
  match j.firstDestination with
  | none => true
  | some d => !isHeld holds d

/-- The master the arbiter chooses and its head job: the first in port order from the pointer whose outbound-queue head is
eligible (R117). -/
def chosen (s : State) : Option (Master × Job × List Job) :=
  (Master.startingAt s.jobs.pointer).findSome? fun m =>
    match s.jobs.outbound.get m with
    | [] => none
    | j :: rest => if eligible s.holds j then some (m, j, rest) else none

/-- The number of a master's QUEUED jobs, RUNNING job and completion entries together (R113). -/
def jobCount (m : Master) (s : State) : Nat :=
  (s.jobs.outbound.get m).length +
    (match s.jobs.running with
      | some r => if r.job.master = m then 1 else 0
      | none => 0) +
    (s.jobs.completions.get m).length

/-- The tags in use by a master's QUEUED jobs, RUNNING job and completion entries (R112). -/
def tagsInUse (m : Master) (s : State) : List Byte :=
  (s.jobs.outbound.get m).map Job.tag ++
    (match s.jobs.running with
      | some r => if r.job.master = m then [r.job.tag] else []
      | none => []) ++
    (s.jobs.completions.get m).map Completion.tag

/-- The tag of a new job: the first value, counting up from the master's tag counter, that is not in use (R112). -/
def newTag (m : Master) (s : State) : Byte :=
  let start := s.jobs.tagCounter.get m
  (((List.range 256).map fun i => start + BitVec.ofNat 8 i).find? fun t => !(tagsInUse m s).contains t).getD start

/-! ### How a port takes a command -/

/-- A command taken: it acts in one event and its answer is formed from the state as it then stands (R164). While the start-up
clear runs it has no effect and is answered NOT READY (R167). An attempt that a grant has made due has begun by then (assumption
log 17). -/
def takeCommand (m : Master) (effect : State → Reply) (s : State) : State :=
  if s.clearing then setTransaction m (.answer (answerBytes .notReady [])) s
  else
    let r := effect (takeAttempt s)
    setTransaction m (.answer (answerBytes r.status r.results)) r.state

/-- The step of a command row: what is still missing of the command's bytes arrives on the port, and at the last of them the
command is taken (R163). On a port that does not await these bytes the event does not arise, and nothing changes (assumption
log 5). -/
def commandStep (m : Master) (code : Byte) (args : List Byte) (effect : State → Reply) (s : State) : State :=
  if awaits (s.ports.get m) code args then takeCommand m effect s else s

end Sys2Proof.Machine
end

