-- ==== Sys2Proof/Machine/LineControl.lean ====
section
/-!
DEFINITION. The shared operations of the line controller: the cut of the transmitter (R56), the abandoned reception (R63), the
departure from UP (R82), the entries and passages of the line state (R65, R70, R75, R78, R79), the rate detector (R76, R77) and
the frame reports (R62, R78, R81).
-/

namespace Sys2Proof.Machine

def setLineState (l : LineState) (s : State) : State := { s with line := { s.line with state := l } }

/-- A cut of the frame on the wire: a sending frame finishes the character in progress and sends no other, a frame in turnaround
reports no completion (R56). -/
def Wire.cut : Wire → Wire
  | .none => .none
  | .sending f rest => .sending { f with cut := true } (rest.take 1)
  | .turnaround f left => .turnaround { f with cut := true } left

/-- Whether the frame on the wire is a job's. -/
def Wire.sendsJob : Wire → Bool
  | .none => false
  | .sending f _ => match f.sender with | .job _ => true | .busy _ => false
  | .turnaround f _ => match f.sender with | .job _ => true | .busy _ => false

/-- The cut of everything the transmitter holds when the line leaves UP; the auto-response slot is emptied (R56). -/
def cutAll (s : State) : State :=
  { s with transmitter := ⟨s.transmitter.wire.cut, none, none⟩ }

/-- The cut of a job's attempt at the port reset of its master; an automatic BUSY and an earlier cut frame run on (R56). -/
def cutJob (s : State) : State :=
  { s with transmitter := { s.transmitter with
      waiting := none,
      wire := if s.transmitter.wire.sendsJob then s.transmitter.wire.cut else s.transmitter.wire } }

/-- A reception in progress is abandoned: no error is counted and no result reported, and its FILLING buffer leaves use (R63). -/
def abandonReception (s : State) : State :=
  match s.receiver with
  | none => s
  | some f => leaveUse f.buffer { s with receiver := none }

/-- The departure from UP, as one event in every block that keeps state gated by UP (R82, R56, R63, R135, R146). -/
def leaveUp (s : State) : State :=
  let s1 := raiseAll .line (latchAll (fun f => { f with upKept := false }) s)
  let s2 := lineLost (abandonReception (cutAll s1))
  { s2 with holds := [] }

/-- Everything that leaving the present line state brings with it: the effects of R82 from UP, an abandoned reception from SEEK
and QUALIFY, nothing from DOWN (R65, R70). -/
def leaveState (s : State) : State :=
  match s.line.state with
  | .down => s
  | .seek _ => abandonReception s
  | .qualify _ _ _ => abandonReception s
  | .up _ _ => leaveUp s

/-- The line enters DOWN, where the idle measurements are not kept (R65, R74, R48). -/
def goDown (s : State) : State :=
  let s1 := leaveState s
  { s1 with line := { s1.line with state := .down, idle := 0, access := 0, low := 0 } }

/-- The line enters SEEK from a state in use, and the detector starts with an empty sample run (R75). -/
def goSeek (s : State) : State := setLineState (.seek []) (leaveState s)

/-- The line enters UP at a code (R79). -/
def enterUp (code : RateCode) (s : State) : State :=
  raiseAll .line { s with line := { s.line with learned := code, state := .up 0 0 } }

/-- The line's entry from DOWN, for UP or for SEEK according to the mode (R65); the idle measurements start from zero (R48). -/
def lineEntry (s : State) : State :=
  let s1 := { s with line := { s.line with idle := 0, access := 0, low := 0 } }
  match s1.line.settings.rateMode with
  | .fixed => enterUp s1.line.settings.fixedCode s1
  | .learn => setLineState (.seek []) s1

/-- The line enters QUALIFY with a candidate (R78). -/
def enterQualify (candidate : RateCode) (s : State) : State :=
  setLineState (.qualify candidate 0 (Config.qualificationWindow * Config.bitsPerCt)) (abandonReception s)

/-- A completed measurement (R77). -/
def measure (run : List Rat) (s : State) : State :=
  let codes := matchedCodes run
  match codes.filter fun c => s.line.settings.permitted.getLsbD c.val with
  | candidate :: _ => enterQualify candidate s
  | [] =>
    if codes.isEmpty then setLineState (.seek []) s
    else setLineState (.seek []) (raiseAll .line (latchAll (fun f => { f with rateFault := true }) s))

/-- A sample added to the sample run (R76). -/
def addSample (run : List Rat) (x : Rat) : List Rat := if samplesAgree (run ++ [x]) then run ++ [x] else [x]

/-- The rate detector takes the sample of a character in SEEK (R76). -/
def detect (runs : List Rat) (s : State) : State :=
  match s.line.state with
  | .seek run =>
    match sampleOf runs with
    | none => setLineState (.seek []) s
    | some x =>
      let run' := addSample run x
      if run'.length = measurementLength then measure run' s else setLineState (.seek run') s
  | _ => s

/-- The line controller takes the receiver's report of an ended frame, good or bad (R62, R78, R81). -/
def reportFrame (good : Bool) (s : State) : State :=
  match s.line.state with
  | .down => s
  | .seek _ => s
  | .qualify candidate count window =>
    if good then
      if count = 0 then setLineState (.qualify candidate 1 window) s else enterUp candidate (abandonReception s)
    else goSeek s
  | .up silence bad =>
    match s.line.settings.rateMode with
    | .fixed => s
    | .learn =>
      if good then setLineState (.up silence 0) s
      else if bad + 1 < Config.badRunLimit then setLineState (.up silence (bad + 1)) s
      else goSeek (setLineState (.up silence (bad + 1)) s)

/-- A master leaves the want set; the line goes DOWN if the set becomes empty (R65). -/
def leaveWantSet (m : Master) (s : State) : State :=
  let s1 := { s with line := { s.line with want := MasterSet.erase s.line.want m } }
  if (MasterSet.erase s.line.want m).isEmpty && !s.line.state.isDown then goDown s1 else s1

end Sys2Proof.Machine
end

