-- ==== Sys2Proof/Machine/DeliveryUnit.lean ====
section
/-!
DEFINITION. The shared operations of the delivery unit and the hold list: fan-out (R101 to R103), the loop-back copy (R107 to
R109), capture (R93), late replies (R95), the busy decision (R98 to R100), the hand-off to the hold list (R97, R142 to R144),
and the delivery decision (R91).
-/

namespace Sys2Proof.Machine

/-! ### Fan-out -/

/-- Whether a master's inbound queue is full (R87). -/
def inboundFull (m : Master) (s : State) : Bool := Config.inboundCapacity ≤ (s.delivery.inbound.get m).length

/-- The masters of a target set that take an entry, and those whose queue is full (R101, R102). -/
def takers (targets : MasterSet) (s : State) : MasterSet :=
  PerMaster.tabulate fun m => targets.get m && !inboundFull m s

def losers (targets : MasterSet) (s : State) : MasterSet :=
  PerMaster.tabulate fun m => targets.get m && inboundFull m s

/-- A frame lost to each master of a set: MISSED counted and requested there (R102, R103, R109). -/
def missedAt (ms : MasterSet) (s : State) : State := raiseIn ms .missed (countIn ms .missed s)

/-- Fan-out of a delivery entry to a target set; the buffer becomes DELIVERED, or leaves use if no master took an entry (R101,
R102). -/
def fanOut (targets : MasterSet) (e : DeliveryEntry) (s : State) : State :=
  let took := takers targets s
  let inbound := PerMaster.tabulate fun m =>
    if took.get m then s.delivery.inbound.get m ++ [e] else s.delivery.inbound.get m
  let s1 := { s with delivery := { s.delivery with inbound := inbound } }
  let s2 := missedAt (losers targets s) (raiseIn took .delivery (countIn took .framesIn s1))
  if took.isEmpty then { s2 with store := s2.store.leaveUse e.buffer }
  else { s2 with store := s2.store.setState e.buffer (.delivered took MasterSet.empty) }

/-- A frame that cannot be delivered for want of a buffer: MISSED and NO BUFFER at each target (R103, R93, R95, R100). -/
def noBufferAt (ms : MasterSet) (s : State) : State := missedAt ms (countIn ms .noBuffer s)

/-- The entry for a received frame (R88, R104). -/
def entryOf (h : Header) (b : BufferId) (late isLocal : Bool) (s : State) : DeliveryEntry :=
  ⟨b, h, s.timeBase, isGroup h.destination || isBroadcast h.destination, late, isLocal⟩

/-- Delivery of a received frame to a target set, with its buffer or without one (R101, R103). -/
def deliverTo (targets : MasterSet) (h : Header) (b : Option BufferId) (late : Bool) (s : State) : State :=
  match b with
  | some b => fanOut targets (entryOf h b late false s) s
  | none => noBufferAt targets s

/-- The loop-back copy of a completed DATA frame, the sending master removed from its targets (R107 to R109). -/
def loopBackCopy (sender : Master) (copy : List Byte) (s : State) : State :=
  let h := headerOf copy
  let targets := MasterSet.erase (targetSet s h.destination) sender
  match s.store.freeQueue with
  | [] => missedAt targets s
  | b :: rest =>
    let s1 := { s with store := { s.store with freeQueue := rest }.writeImage b 0 copy }
    fanOut targets (entryOf h b false true s1) s1

/-! ### The hold list -/

/-- The entry with the least remaining time, the earliest in the addition order among several (R143). -/
def leastEntry : List HoldEntry → Option HoldEntry
  | [] => none
  | e :: rest =>
    match leastEntry rest with
    | none => some e
    | some f => if e.remaining ≤ f.remaining then some e else some f

/-- A HOLD from a station, taken with a hold time (R142, R143). -/
def takeHold (station : Byte) (time : Nat) (holds : List HoldEntry) : List HoldEntry :=
  if isHeld holds station then holds.map fun e => if e.station = station then { e with remaining := time } else e
  else if holds.length < Config.holdCapacity then holds ++ [⟨station, time⟩]
  else
    match leastEntry holds with
    | some e => holds.erase e ++ [⟨station, time⟩]
    | none => [⟨station, time⟩]

/-- A RESUME from a station (R144). -/
def takeResume (station : Byte) (holds : List HoldEntry) : List HoldEntry := holds.filter fun e => e.station ≠ station

/-! ### Frame end -/

/-- A reply captured by the running job's AWAIT (R93, R122). -/
def capture (r : Running) (outcome : AwaitOutcome) (b : Option BufferId) (s : State) : State :=
  let m := r.job.master
  let s1 := match b with
    | some b => { s with store := s.store.setState b (.inJob m r.job.tag) }
    | none => noBufferAt (MasterSet.singleton m) s
  let s2 := leaveUse r.job.reply s1
  nextOrder (setRunning (some { r with job := { r.job with reply := b, lastAwait := outcome }, doing := .send }) s2)

/-- Whether the running job captures a frame (R93). -/
def captures (h : Header) (s : State) : Option Running :=
  match s.jobs.running with
  | some r =>
    match r.doing with
    | .await key _ => if h.answers key then some r else none
    | _ => none
  | none => none

/-- A REPLY or BUSY to a unicast address: captured, or matched by the owner's late-reply record, or delivered in the ordinary
way (R91, R93, R95, R96). -/
def deliverReply (outcome : AwaitOutcome) (h : Header) (b : Option BufferId) (s : State) : State :=
  match captures h s with
  | some r => capture r outcome b s
  | none =>
    let ordinary := deliverTo (targetSet s h.destination) h b false s
    match ownerOf s.table h.destination with
    | none => ordinary
    | some m =>
      match s.delivery.late.get m with
      | none => ordinary
      | some key =>
        if h.answers key then
          deliverTo (MasterSet.singleton m) h b true
            { s with delivery := { s.delivery with late := s.delivery.late.set m none } }
        else ordinary

/-- The automatic BUSY that answers a REQUEST (R99), placed in the auto-response slot in place of an unsent one (R55). -/
def placeBusy (h : Header) (s : State) : State :=
  { s with transmitter := { s.transmitter with slot := some ⟨h.source, h.destination, h.sequence⟩ } }

/-- A REQUEST to a unicast address (R98, R100). -/
def deliverRequest (h : Header) (b : Option BufferId) (s : State) : State :=
  let listenOnly := s.line.settings.listenOnly
  match ownerOf s.table h.destination with
  | none => leaveUse b s
  | some m =>
    match b with
    | none =>
      let s1 := noBufferAt (MasterSet.singleton m) s
      if listenOnly then s1 else placeBusy h s1
    | some b =>
      if (s.delivery.inbound.get m).length < (s.ports.get m).settings.busyThreshold then
        deliverTo (MasterSet.singleton m) h (some b) false s
      else
        let s1 := missedAt (MasterSet.singleton m) { s with store := s.store.leaveUse b }
        if listenOnly then s1 else placeBusy h (countAt m .busySent s1)

/-- The delivery decision at the frame end of a good, matched frame (R91). -/
def deliver (h : Header) (b : Option BufferId) (s : State) : State :=
  match FrameKind.ofByte h.kind with
  | some .hold => { leaveUse b s with holds := takeHold h.source (holdTime s.line.settings) s.holds }
  | some .resume => { leaveUse b s with holds := takeResume h.source s.holds }
  | some .reply => deliverReply .replied h b s
  | some .busy => deliverReply .busy h b s
  | some .request =>
    if isUnicast h.destination then deliverRequest h b s else deliverTo (targetSet s h.destination) h b false s
  | some .data => deliverTo (targetSet s h.destination) h b false s
  | none => leaveUse b s

end Sys2Proof.Machine
end

