-- ==== Sys2Proof/Machine/FrameStore.lean ====
section
/-!
DEFINITION. The meanings of the frame store's steps: STORE_UPSET, PATROL_VISIT, ALLOC, FREE, ADOPT, WRITE, READ, SCRUB and
STORE_STATUS (R1, R12 to R19, R25).
-/

namespace Sys2Proof.Machine

/-! ### STORE_UPSET and PATROL_VISIT -/

/-- The mask of a word's bit: bits 64 to 71 are check bits, whose change leaves the data as they stand. -/
def upsetMask (bit : Fin 72) : BitVec 64 := if bit.val < 64 then BitVec.twoPow 64 bit.val else 0

/-- A store upset (R1). While the start-up clear runs, an upset that falls before its word's clearing write leaves no trace; the
spec does not say which words have been cleared by then, so a free value decides, unless the word has already been found upset
after its clearing write (R26; assumption log 3). While RESET# is low every clearing write is still to come. -/
def upsetWord (w : WordNo) (bit : Fin 72) (s : State) : State :=
  if s.resetLow then s
  else if s.clearing && (s.store.upsetAt w).isNone then
    let s1 := { s with fresh := s.fresh + 1 }
    if Config.upsetAfterClearingWrite s.fresh w.val then { s1 with store := s.store.addUpset w (upsetMask bit) } else s1
  else { s with store := s.store.addUpset w (upsetMask bit) }

/-- STORE_UPSET (R1). -/
def execStoreUpset (word : Nat) (bit : Fin 72) (s : State) : Host.Outcome State Fault Refusal :=
  if h : word < 3072 then .next (upsetWord ⟨word, h⟩ bit s) else .fault .noSuchWord

/-- One visit of the patrol (R25). -/
def patrol (s : State) : State :=
  let w := s.store.patrolIndex
  let visited := if (s.store.buffer (bufferOf w)).state = .filling then s else (readWord w s).2
  { visited with store := { visited.store with patrolIndex := w + 1 } }

/-- PATROL_VISIT: no visit is made with the patrol off or during the start-up clear (R25, R26). -/
def execPatrolVisit (s : State) : Host.Outcome State Fault Refusal :=
  .next (if s.clearing || !s.line.settings.patrol then s else patrol s)

/-! ### The buffer commands -/

/-- A command's buffer number, when the part has that buffer (R11, BAD BUFFER). -/
def bufferArg (b : Half) : Option BufferId := if h : b.toNat < 96 then some ⟨b.toNat, h⟩ else none

/-- ALLOC (R12). -/
def alloc (m : Master) (s : State) : Reply :=
  if (s.ports.get m).settings.quota ≤ s.store.usage m then refuse .full s
  else if s.store.freeQueue.length ≤ s.line.settings.receiveReserve then refuse .noBuffer s
  else
    match s.store.claimHead (.owned m) with
    | none => refuse .noBuffer s
    | some (b, st) => ⟨.ok, bufferBytes (some b), { s with store := st }⟩

def execAlloc (m : Master) (s : State) : Host.Outcome State Fault Refusal :=
  .next (commandStep m 0x30 [] (alloc m) s)

/-- FREE (R13). -/
def free (m : Master) (buffer : Half) (s : State) : Reply :=
  match bufferArg buffer with
  | none => refuse .badBuffer s
  | some b =>
    match (s.store.buffer b).state with
    | .owned o => if o = m then ⟨.ok, [], { s with store := s.store.leaveUse b }⟩ else refuse .notYours s
    | .delivered pending holders =>
      if holders.get m then
        let rest := MasterSet.erase holders m
        if pending.isEmpty && rest.isEmpty then ⟨.ok, [], { s with store := s.store.leaveUse b }⟩
        else ⟨.ok, [], { s with store := s.store.setState b (.delivered pending rest) }⟩
      else refuse .notYours s
    | _ => refuse .notYours s

def execFree (m : Master) (buffer : Half) (s : State) : Host.Outcome State Fault Refusal :=
  .next (commandStep m 0x31 (halfBytes buffer) (free m buffer) s)

/-- ADOPT (R14). -/
def adopt (m : Master) (buffer : Half) (s : State) : Reply :=
  match bufferArg buffer with
  | none => refuse .badBuffer s
  | some b =>
    if (s.store.buffer b).state = .delivered MasterSet.empty (MasterSet.singleton m) then
      if (s.ports.get m).settings.quota ≤ s.store.usage m then refuse .full s
      else ⟨.ok, [], { s with store := s.store.setState b (.owned m) }⟩
    else refuse .notYours s

def execAdopt (m : Master) (buffer : Half) (s : State) : Host.Outcome State Fault Refusal :=
  .next (commandStep m 0x32 (halfBytes buffer) (adopt m buffer) s)

/-- Whether offset and count name bytes of a buffer, 1 to 64 of them (R15, R17). -/
def spanOk (offset count : Half) : Bool :=
  1 ≤ count.toNat && count.toNat ≤ 64 && offset.toNat + count.toNat ≤ 256

/-- The eight bytes of word `k` of a buffer after bytes are laid over them from byte offset `offset` (R16). -/
def mergeWord (k offset : Nat) (data old : List Byte) : List Byte :=
  (List.range 8).map fun i =>
    if offset ≤ 8 * k + i ∧ 8 * k + i < offset + data.length then data.getD (8 * k + i - offset) 0 else old.getD i 0

/-- Whether a span covers all eight bytes of word `k` of a buffer (R15). -/
def coversWord (k offset count : Nat) : Bool := offset ≤ 8 * k && 8 * k + 8 ≤ offset + count

/-- One word of a WRITE: a full-word write, or the read-modify-write of R16, which abandons a double-upset word (R15, R16). -/
def writeOneWord (b : BufferId) (k offset : Nat) (data : List Byte) (s : State) : State :=
  let w := wordOf b k
  if coversWord k offset data.length then { s with store := s.store.writeWord w (mergeWord k offset data []) }
  else
    match s.store.condition w with
    | .doubleUpset => (readWord w s).2
    | _ =>
      let r := readWord w s
      { r.2 with store := r.2.store.writeWord w (mergeWord k offset data r.1) }

/-- The words of a WRITE, in ascending order (R15). -/
def writeWords (b : BufferId) (offset : Nat) (data : List Byte) (ks : List Nat) (s : State) : State :=
  ks.foldl (fun s k => writeOneWord b k offset data s) s

/-- The word indices within a buffer that a span of at least one byte touches, ascending (R15, R17). -/
def spanWords (offset count : Nat) : List Nat :=
  (List.range ((offset + count - 1) / 8 + 1 - offset / 8)).map fun i => offset / 8 + i

/-- WRITE (R15). -/
def write (m : Master) (buffer offset count : Half) (data : List Byte) (s : State) : Reply :=
  match bufferArg buffer with
  | none => refuse .badBuffer s
  | some b =>
    if !spanOk offset count then refuse .badArg s
    else if (s.store.buffer b).state ≠ .owned m then refuse .notYours s
    else if (s.store.buffer b).damaged then refuse .damaged s
    else ⟨.ok, [], writeWords b offset.toNat data (spanWords offset.toNat count.toNat) s⟩

def execWrite (m : Master) (buffer offset count : Half) (data : List Byte) (s : State) : Host.Outcome State Fault Refusal :=
  .next (commandStep m 0x33 (halfBytes buffer ++ halfBytes offset ++ halfBytes count ++ data) (write m buffer offset count data) s)

/-- Whether a master may read a buffer (R17). -/
def BufferState.readableBy (m : Master) : BufferState → Bool
  | .owned o => o = m
  | .inJob o _ => o = m
  | .delivered _ holders => holders.get m
  | _ => false

/-- READ (R17). -/
def read (m : Master) (buffer offset count : Half) (s : State) : Reply :=
  match bufferArg buffer with
  | none => refuse .badBuffer s
  | some b =>
    if !spanOk offset count then refuse .badArg s
    else if !(s.store.buffer b).state.readableBy m then refuse .notYours s
    else
      let r := readWords ((spanWords offset.toNat count.toNat).map (wordOf b)) s
      let bytes := (r.1.drop (offset.toNat % 8)).take count.toNat
      ⟨if (r.2.store.buffer b).damaged then .damaged else .ok, bytes, r.2⟩

def execRead (m : Master) (buffer offset count : Half) (s : State) : Host.Outcome State Fault Refusal :=
  .next (commandStep m 0x34 (halfBytes buffer ++ halfBytes offset ++ halfBytes count) (read m buffer offset count) s)

/-- All 32 words of a buffer written with zeros (R18). -/
def Store.zeroBuffer (st : Store) (b : BufferId) : Store :=
  (List.range 32).foldl (fun st k => st.writeWord (wordOf b k) []) st

/-- A buffer scrubbed: its words clean and zero, its damaged flag clear, its words gone from the damaged-word table (R18). -/
def Store.scrub (st : Store) (b : BufferId) : Store :=
  let st1 := st.zeroBuffer b
  { st1.setBuffer b { st1.buffer b with damaged := false } with
    damagedWords := st1.damagedWords.filter fun w => bufferOf w ≠ b }

/-- SCRUB (R18). -/
def scrub (m : Master) (buffer : Half) (s : State) : Reply :=
  match bufferArg buffer with
  | none => refuse .badBuffer s
  | some b =>
    match (s.store.buffer b).state with
    | .owned o => if o = m then ⟨.ok, [], { s with store := s.store.scrub b }⟩ else refuse .notYours s
    | .quarantined => ⟨.ok, [], { s with store := (s.store.scrub b).leaveUse b }⟩
    | _ => refuse .notYours s

def execScrub (m : Master) (buffer : Half) (s : State) : Host.Outcome State Fault Refusal :=
  .next (commandStep m 0x35 (halfBytes buffer) (scrub m buffer) s)

/-- STORE STATUS (R19, R169). -/
def storeStatus (m : Master) (s : State) : Reply :=
  ⟨.ok,
    [natByte s.store.freeQueue.length, natByte s.store.quarantined, natByte (s.store.usage m),
      natByte (s.ports.get m).settings.quota, natByte s.store.damagedWords.length] ++
      s.store.damagedWords.flatMap fun w => halfBytes (BitVec.ofNat 16 w.val),
    s⟩

def execStoreStatus (m : Master) (s : State) : Host.Outcome State Fault Refusal :=
  .next (commandStep m 0x36 [] (storeStatus m) s)

end Sys2Proof.Machine
end

