-- ==== Sys2Proof/Machine/AddressTable.lean ====
section
/-!
DEFINITION. The meanings of the address table's commands: CLAIM, DROP, JOIN, LEAVE and TABLE_READ (R29 to R37), and what a port
reset does to the table (R42).
-/

namespace Sys2Proof.Machine

def setTable (t : List TableEntry) (s : State) : State := { s with table := t }

/-- CLAIM (R32). -/
def claim (m : Master) (a : Byte) (s : State) : Reply :=
  if !isUnicast a then refuse .badArg s
  else
    match entryFor s.table a with
    | some e => if e.subscribers.get m then ⟨.ok, [], s⟩ else refuse .claimed s
    | none =>
      if Config.tableCapacity ≤ s.table.length then refuse .full s
      else ⟨.ok, [], setTable (s.table ++ [⟨a, MasterSet.singleton m⟩]) s⟩

def execClaim (m : Master) (a : Byte) (s : State) : Host.Outcome State Fault Refusal :=
  .next (commandStep m 0x20 [a] (claim m a) s)

/-- The table without its entry for an address; later entries move up by one index (R33). -/
def withoutEntry (table : List TableEntry) (a : Byte) : List TableEntry := table.filter fun e => e.address ≠ a

/-- DROP (R33). -/
def drop (m : Master) (a : Byte) (s : State) : Reply :=
  if !isUnicast a then refuse .badArg s
  else
    match entryFor s.table a with
    | none => refuse .notFound s
    | some e => if e.subscribers.get m then ⟨.ok, [], setTable (withoutEntry s.table a) s⟩ else refuse .notYours s

def execDrop (m : Master) (a : Byte) (s : State) : Host.Outcome State Fault Refusal :=
  .next (commandStep m 0x21 [a] (drop m a) s)

/-- The table with the subscribers of one entry replaced; the entry keeps its index (R34, R35). -/
def withSubscribers (table : List TableEntry) (a : Byte) (ms : MasterSet) : List TableEntry :=
  table.map fun e => if e.address = a then { e with subscribers := ms } else e

/-- JOIN (R34). -/
def join (m : Master) (g : Byte) (s : State) : Reply :=
  if !isGroup g then refuse .badArg s
  else
    match entryFor s.table g with
    | some e =>
      if e.subscribers.get m then ⟨.ok, [], s⟩
      else ⟨.ok, [], setTable (withSubscribers s.table g (MasterSet.insert e.subscribers m)) s⟩
    | none =>
      if Config.tableCapacity ≤ s.table.length then refuse .full s
      else ⟨.ok, [], setTable (s.table ++ [⟨g, MasterSet.singleton m⟩]) s⟩

def execJoin (m : Master) (g : Byte) (s : State) : Host.Outcome State Fault Refusal :=
  .next (commandStep m 0x22 [g] (join m g) s)

/-- LEAVE (R35). -/
def leave (m : Master) (g : Byte) (s : State) : Reply :=
  if !isGroup g then refuse .badArg s
  else
    match entryFor s.table g with
    | none => refuse .notFound s
    | some e =>
      if e.subscribers.get m then
        let rest := MasterSet.erase e.subscribers m
        if rest.isEmpty then ⟨.ok, [], setTable (withoutEntry s.table g) s⟩
        else ⟨.ok, [], setTable (withSubscribers s.table g rest) s⟩
      else refuse .notFound s

def execLeave (m : Master) (g : Byte) (s : State) : Host.Outcome State Fault Refusal :=
  .next (commandStep m 0x23 [g] (leave m g) s)

/-- A class byte: 0 UNICAST, 1 GROUP (R169). -/
def classByte (a : Byte) : Byte := if isGroup a then 1 else 0

/-- TABLE READ (R37, R169). -/
def tableRead (index : Byte) (s : State) : Reply :=
  if 15 < index.toNat then refuse .badArg s
  else
    match s.table[index.toNat]? with
    | none => refuse .notFound s
    | some e => ⟨.ok, [natByte s.table.length, e.address, classByte e.address, masterSetByte e.subscribers], s⟩

def execTableRead (m : Master) (index : Byte) (s : State) : Host.Outcome State Fault Refusal :=
  .next (commandStep m 0x24 [index] (tableRead index) s)

/-- A port reset removes the master from every subscriber set and drops the entries left empty (R42). -/
def withoutMaster (table : List TableEntry) (m : Master) : List TableEntry :=
  (table.map fun e => { e with subscribers := MasterSet.erase e.subscribers m }).filter fun e => !e.subscribers.isEmpty

end Sys2Proof.Machine
end

