-- ==== Sys2Proof/Machine/LineSteps.lean ====
section
/-!
DEFINITION. The meanings of the line controller's steps: WANT_LINE, UNWANT_LINE, LINE_SET, LINE_GET, LINE_STATE, RELEARN,
SILENCE_TIMEOUT and QUALIFICATION_WINDOW_EXPIRY (R64 to R86).
-/

namespace Sys2Proof.Machine

/-- WANT LINE (R64, R65). -/
def wantLine (m : Master) (s : State) : Reply :=
  let s1 := { s with line := { s.line with want := MasterSet.insert s.line.want m } }
  let s2 := if s.line.want.isEmpty && s.line.state.isDown then lineEntry s1 else s1
  ⟨.ok, [s2.line.state.byte], s2⟩

def execWantLine (m : Master) (s : State) : Host.Outcome State Fault Refusal :=
  .next (commandStep m 0x10 [] (wantLine m) s)

/-- UNWANT LINE (R64, R65). -/
def unwantLine (m : Master) (s : State) : Reply :=
  let s1 := leaveWantSet m s
  ⟨.ok, [s1.line.state.byte], s1⟩

def execUnwantLine (m : Master) (s : State) : Host.Outcome State Fault Refusal :=
  .next (commandStep m 0x11 [] (unwantLine m) s)

/-- A taken LINE SET: the record replaced, a LINE request at every master, and a line restart if the line is in use (R69,
R70). -/
def applySettings (record : Settings) (s : State) : State :=
  let s1 := raiseAll .line { s with line := { s.line with settings := record } }
  if s.line.state.isDown then s1 else lineEntry (goDown s1)

/-- LINE SET (R68). -/
def lineSet (m : Master) (record : SettingsBytes) (s : State) : Reply :=
  match settingsOf record with
  | none => refuse .badArg s
  | some r =>
    if s.line.want.isEmpty || s.line.want = MasterSet.singleton m then ⟨.ok, [], applySettings r s⟩
    else refuse .lineInUse s

def execLineSet (m : Master) (record : SettingsBytes) (s : State) : Host.Outcome State Fault Refusal :=
  .next (commandStep m 0x12 (bytesOfSettings record) (lineSet m record) s)

/-- LINE GET (R71). -/
def lineGet (s : State) : Reply := ⟨.ok, bytesOfSettings s.line.settings.toBytes, s⟩

def execLineGet (m : Master) (s : State) : Host.Outcome State Fault Refusal :=
  .next (commandStep m 0x13 [] lineGet s)

/-- The running job's port number and tag as LINE STATE returns them (R170). -/
def runningBytes (s : State) : List Byte :=
  match s.jobs.running with
  | some r => [natByte r.job.master.number, r.job.tag]
  | none => [0xFF, 0]

/-- The line state record of LINE STATE (R85, R170). -/
def lineStateRecord (m : Master) (s : State) : List Byte :=
  [s.line.state.byte, natByte s.line.appliedCode.val, masterSetByte s.line.want, natByte s.holds.length] ++ runningBytes s ++
    halfBytes (responseTimerValue s) ++ [(s.line.flags.get m).byte]

/-- LINE STATE: the record, then the requester's flags cleared, UP-KEPT to whether the line is UP (R85, R86). -/
def lineState (m : Master) (s : State) : Reply :=
  ⟨.ok, lineStateRecord m s,
    { s with line := { s.line with flags := s.line.flags.set m ⟨s.line.state.isUp, false, false, false⟩ } }⟩

def execLineState (m : Master) (s : State) : Host.Outcome State Fault Refusal :=
  .next (commandStep m 0x14 [] (lineState m) s)

/-- RELEARN (R84). -/
def relearn (s : State) : Reply :=
  if s.line.settings.rateMode = .learn && !s.line.state.isDown then ⟨.ok, [], goSeek s⟩ else refuse .badArg s

def execRelearn (m : Master) (s : State) : Host.Outcome State Fault Refusal :=
  .next (commandStep m 0x15 [] relearn s)

/-- The silence timeout of a line that is UP (R80). -/
def timeOut (s : State) : State :=
  let s1 := latchAll (fun f => { f with silent := true }) s
  match s.line.settings.rateMode with
  | .learn => goSeek s1
  | .fixed => raiseAll .line (reportCharacter s1)

/-- The silence timer of a line that is UP reaches the timeout; in no other state does it run (R80). -/
def silenceExpires (s : State) : State :=
  match s.line.state with
  | .up silence _ => timeOut (lineTime (silenceTimeout s.line.settings - silence) s)
  | _ => s

/-- SILENCE_TIMEOUT (R80; assumption logs 4, 17). -/
def execSilenceTimeout (s : State) : Host.Outcome State Fault Refusal := .next (silenceExpires (takeAttempt s))

/-- The window of a line in QUALIFY reaches its end; in no other state does it run (R78). -/
def windowExpires (s : State) : State :=
  match s.line.state with
  | .qualify _ _ window => goSeek (lineTime window s)
  | _ => s

/-- QUALIFICATION_WINDOW_EXPIRY (R78; assumption logs 4, 17). -/
def execQualificationWindowExpiry (s : State) : Host.Outcome State Fault Refusal := .next (windowExpires (takeAttempt s))

end Sys2Proof.Machine
end

