-- ==== Sys2Proof/Machine/Signalling.lean ====
section
/-!
DEFINITION. The meanings of the receiver's and the transmitter's steps: ADDRESS_CHARACTER, BODY_CHARACTER, FRAME_END,
ATTEMPT_BEGINS_SENDING, AUTOMATIC_BUSY_START, CHARACTER_SENT and DE_RELEASE (R43 to R63, R121).
-/

namespace Sys2Proof.Machine

/-! ### The receiver -/

/-- The error found at the end of a frame that no address character cut, if any, in the order of R60. -/
def frameError (f : Frame) : Option ReceiveError :=
  let h := headerOf f.header
  if f.firstError = some .framing then some .framing
  else if f.header.length < 5 || 240 < h.length.toNat || f.count ≠ 7 + h.length.toNat then some .length
  else if f.check ≠ halfBytes f.crc then some .crc
  else if !isUnicast h.source then some .source
  else
    match FrameKind.ofByte h.kind with
    | none => some .kind
    | some .reply => if isGroup h.destination || isBroadcast h.destination then some .kind else none
    | some .busy => if isGroup h.destination || isBroadcast h.destination then some .kind else none
    | some _ => none

/-- The counter of a receive error (R60). -/
def ReceiveError.counter : ReceiveError → CounterName
  | crc => .crcErrors
  | _ => .formatErrors

/-- A bad frame ends: its one error is counted in every copy and its buffer, if any, leaves use (R60). -/
def endBadFrame (e : ReceiveError) (f : Frame) (s : State) : State := leaveUse f.buffer (countAll e.counter s)

/-- An address character starts a new frame in progress; on a match in UP the free-queue head is claimed (R58, R39, R92). -/
def startFrame (data : Byte) (stop : Bool) (s : State) : State :=
  let error := if stop then none else some ReceiveError.framing
  let frame : Frame := ⟨[data], 1, crcByte crcStart data, none, none, [], [], error⟩
  if s.line.state.isUp then
    if addressMatches s data then
      match s.store.claimHead .filling with
      | some (b, st) => { s with store := st, receiver := some { frame with matched := some true, buffer := some b, assembly := [data] } }
      | none => { s with receiver := some { frame with matched := some true } }
    else { s with receiver := some { frame with matched := some false } }
  else { s with receiver := some frame }

/-- The last position of the image that the receiver stores: 4 + L, and 244 for a length above 240 (R59; assumption log 7). -/
def lastStored (length : Byte) : Nat := min (4 + length.toNat) 244

/-- The byte of a body character at position `p` placed in the word assembly of a frame with a buffer; a full assembly, or the
one that position 4 + L completes, is written to the buffer's word of that position (R59). -/
def placeByte (data : Byte) (p : Nat) (length : Option Byte) (b : BufferId) (f : Frame) (s : State) : State :=
  let assembly := f.assembly ++ [data]
  let last := match length with
    | some l => p = lastStored l
    | none => false
  if assembly.length = 8 || last then
    { s with store := s.store.writeWord (wordOf b (p / 8)) assembly, receiver := some { f with assembly := [] } }
  else { s with receiver := some { f with assembly := assembly } }

/-- A body character adds to the frame in progress (R59). -/
def extendFrame (data : Byte) (stop : Bool) (f : Frame) (s : State) : State :=
  let p := f.count
  let header := if p ≤ 4 then f.header ++ [data] else f.header
  let length := header[4]?
  let inImage := match length with
    | some l => decide (p ≤ 4 + l.toNat)
    | none => true
  let isCheck := match length with
    | some l => decide (p = 5 + l.toNat ∨ p = 6 + l.toNat)
    | none => false
  let stored := match length with
    | some l => decide (p ≤ lastStored l)
    | none => true
  let f1 : Frame := { f with
    header := header,
    count := min 255 (p + 1),
    crc := if inImage then crcByte f.crc data else f.crc,
    check := if isCheck then f.check ++ [data] else f.check,
    firstError := f.firstError.orElse fun _ => if stop then none else some .framing }
  match f.buffer with
  | some b => if stored && f.firstError.isNone then placeByte data p length b f1 s else { s with receiver := some f1 }
  | none => { s with receiver := some f1 }

/-- The time of a character on RXD: its start bit cannot begin before RXD has returned to 1, it takes 11 bit times, and the idle
measurements start afresh after it (R43, R48). -/
def characterTime (low : Nat) (s : State) : State := restartIdle low (lineTime (s.line.low + Config.bitsPerCt) s)

/-- What every character on a line in use does while DE is low: its time passes, and it is reported to the line controller (R62). -/
def characterArrives (low : Nat) (s : State) : State := reportCharacter (characterTime low s)

/-- An address character taken: a frame in progress is cut as a framing error, and the character starts a new one; the bad
result then goes to the line controller (R58, R61, R78; assumption log 6). The cut frame's buffer leaves use first. When the
report takes the line to SEEK, the new frame's buffer leaves use after it, also where its number is the lower: that the two
stand at the free tail in this order, and not in the ascending order of R9, is the model's choice (assumption log 16). -/
def takeAddress (data : Byte) (stop : Bool) (s : State) : State :=
  match s.receiver with
  | none => startFrame data stop s
  | some f => reportFrame false (startFrame data stop (endBadFrame .framing f { s with receiver := none }))

/-- A body character taken: into the frame in progress, or dropped when there is none (R44, R59). -/
def takeBody (data : Byte) (stop : Bool) (s : State) : State :=
  match s.receiver with
  | none => s
  | some f => extendFrame data stop f s

/-- A character that arrives on RXD while the line is in use. With DE low it is taken, and in SEEK it gives the rate detector a
sample (R76). With DE raised it restarts the idle measurements and is otherwise not received (R48, R49); in the turnaround delay
its time passes, and while a frame is sending it is the time of the character being sent (assumption log 13). -/
def hearCharacter (take : State → State) (low : Nat) (runs : List Rat) (s : State) : State :=
  match s.transmitter.wire with
  | .none =>
    let taken := take (characterArrives low s)
    if s.line.state.isSeek then detect runs taken else taken
  | .sending _ _ => restartIdle low s
  | .turnaround _ _ => characterTime low s

/-- A character that arrives on RXD: ignored while the line is DOWN (R57, R74). -/
def receiveCharacter (take : State → State) (low : Nat) (runs : List Rat) (s : State) : State :=
  if s.line.state.isDown then s else hearCharacter take low runs s

/-- ADDRESS_CHARACTER (R58, R61; assumption log 17). -/
def execAddressCharacter (data : Byte) (stop : Bool) (runs : List Rat) (s : State) (low : Nat := 0) : Host.Outcome State Fault Refusal :=
  .next (receiveCharacter (takeAddress data stop) (lowAfter stop low) runs (takeAttempt s))

/-- BODY_CHARACTER (R44, R59; assumption log 17). -/
def execBodyCharacter (data : Byte) (stop : Bool) (runs : List Rat) (s : State) (low : Nat := 0) : Host.Outcome State Fault Refusal :=
  .next (receiveCharacter (takeBody data stop) (lowAfter stop low) runs (takeAttempt s))

/-- A frame in progress reaches its frame end (R62). -/
def endFrame (f : Frame) (s : State) : State :=
  match frameError f with
  | some e => reportFrame false (endBadFrame e f s)
  | none =>
    reportFrame true
      (if s.line.state.isUp && f.matched = some true then deliver (headerOf f.header) f.buffer s else s)

/-- What a grant has left due when a frame ends: a frame end for which time has still to pass comes after the attempt has begun, and
one that falls together with the grant is taken before it, so that the attempt meets the hold that the frame brings (R147). -/
def attemptBeforeFrameEnd (s : State) : State := if endGapWait s = 0 then s else takeAttempt s

/-- FRAME_END: the end gap is met after the frame's last stop bit (R48, R62); with no frame in progress
no frame ends (assumption logs 4, 5, 17). -/
def execFrameEnd (s : State) : Host.Outcome State Fault Refusal :=
  match s.receiver with
  | none => .next s
  | some f => .next (endFrame f { untilEndGap (attemptBeforeFrameEnd s) with receiver := none })

/-! ### The transmitter -/

def setWire (w : Wire) (s : State) : State := { s with transmitter := { s.transmitter with wire := w } }

/-- Whether the line is free for a frame of the part: DE low and no frame in progress (R52, R55). -/
def lineFree (s : State) : Bool := !s.transmitter.wire.deRaised && s.receiver.isNone

/-- The waiting attempt begins to send once the line has stayed idle for the access gap plus its backoff
(R52, R53). A BUSY in the slot whose end gap is met by then goes first (R50); it is not met while RXD stays 0 after a stop bit that
read 0 (R48). Where these conditions do not hold the attempt does not begin (assumption logs 4, 5). -/
def sendAttempt (s : State) : State :=
  match s.transmitter.waiting with
  | some a =>
    if lineFree s && (s.transmitter.slot.isNone || decide (accessWait a s < endGapWait s)) then
      let s1 := lineTime (accessWait a s) s
      { s1 with transmitter := { s1.transmitter with
        waiting := none, wire := .sending ⟨.job a, false, false, s.line.settings.turnaround⟩ (frameCharacters a.copy) } }
    else s
  | none => s

/-- ATTEMPT_BEGINS_SENDING (R52; assumption log 17). -/
def execAttemptBeginsSending (s : State) : Host.Outcome State Fault Refusal := .next (sendAttempt (takeAttempt s))

/-- The slot's BUSY begins to send once the end gap is met; a waiting attempt stands aside (R50, R55; assumption logs 4, 5). -/
def sendBusy (s : State) : State :=
  match s.transmitter.slot with
  | some b =>
    if lineFree s then
      let s1 := untilEndGap s
      { s1 with transmitter := { s1.transmitter with
        slot := none, wire := .sending ⟨.busy b, false, false, s.line.settings.turnaround⟩ (frameCharacters b.image) } }
    else s
  | none => s

/-- AUTOMATIC_BUSY_START (R55; assumption log 17). -/
def execAutomaticBusyStart (s : State) : Host.Outcome State Fault Refusal := .next (sendBusy (takeAttempt s))

/-- What every character the part sends does: it takes 11 bit times, restarts the idle measurements and is reported to the line
controller (R43, R48, R62). -/
def characterLeaves (low : Nat) (s : State) : State := reportCharacter (restartIdle low (lineTime Config.bitsPerCt s))

/-- A frame goes on: its next character follows, or after the last one the turnaround delay begins (R49, R53). -/
def sendOn (f : OnWire) (rest : List TxCharacter) (s : State) : State :=
  setWire (if rest.isEmpty then .turnaround f f.delay else .sending f rest) s

/-- The character in progress ends: the echo compare of R53, unless the frame has been cut (R56; assumption log 8). -/
def finishCharacter (f : OnWire) (c : TxCharacter) (rest : List TxCharacter) (echo : BitVec 11) (s : State) : State :=
  if f.cut then sendOn f rest s
  else if echo ≠ c.bits then countAll .collisions (setWire (.turnaround { f with collided := true } f.delay) s)
  else sendOn f rest s

/-- The character in progress has been sent; with none in progress none ends (R53, R55, R56; assumption log 5). -/
def characterSent (echo : BitVec 11) (low : Nat) (s : State) : State :=
  match s.transmitter.wire with
  | .sending f (c :: rest) => finishCharacter f c rest echo (characterLeaves (lowAfter (echo.getLsbD 10) low) s)
  | _ => s

/-- CHARACTER_SENT (R53; assumption log 17). -/
def execCharacterSent (echo : BitVec 11) (s : State) (low : Nat := 0) : Host.Outcome State Fault Refusal :=
  .next (characterSent echo low (takeAttempt s))

/-- The SEND order in progress and its buffer and cached header. -/
def currentSend (r : Running) : Option (BufferId × Header) :=
  match r.job.orders[r.job.index]? with
  | some ⟨.send b, some h⟩ => some (b, h)
  | _ => none

/-- An attempt ends in a collision (R53, R121, R127). -/
def attemptCollided (r : Running) (s : State) : State :=
  match r.job.pendingEnd with
  | some p => endJob p.outcome (some r.job.index) s
  | none =>
    if r.job.retries < s.line.settings.retryLimit then
      let r' := { r with job := { r.job with retries := r.job.retries + 1 } }
      match currentSend r with
      | some (b, h) => beginAttempt r' b h (setRunning (some r') s)
      | none => s
    else endJob .collided (some r.job.index) s

/-- An attempt completes: the job's last SEND is set, the loop-back copy is made, and the job ends or goes on (R54, R121,
R127). -/
def attemptCompleted (r : Running) (a : Attempt) (s : State) : State :=
  let h := match currentSend r with
    | some (_, h) => h
    | none => headerOf a.copy
  let r' := { r with job := { r.job with lastSend := some ⟨h.kind, h.key⟩ } }
  let s1 := setRunning (some r') s
  let s2 := if a.loopBack then loopBackCopy r.job.master a.copy s1 else s1
  match r.job.pendingEnd with
  | some p => endJob p.outcome (some r.job.index) s2
  | none => nextOrder s2

/-- DE falls at the end of the turnaround delay of a frame (R54, R55, R56). -/
def releaseDriver (f : OnWire) (s : State) : State :=
  match f.sender with
  | .busy _ => s
  | .job a =>
    if f.cut then s
    else
      match s.jobs.running with
      | none => s
      | some r => if f.collided then attemptCollided r s else attemptCompleted r a s

/-- What is left of the turnaround delay passes, and DE falls; with no frame in turnaround DE does not fall (R49, R54; assumption
logs 4, 5, 14). -/
def turnaroundEnds (s : State) : State :=
  match s.transmitter.wire with
  | .turnaround f left => releaseDriver f (setWire .none (lineTime left s))
  | _ => s

/-- DE_RELEASE (R54; assumption log 17). -/
def execDeRelease (s : State) : Host.Outcome State Fault Refusal := .next (turnaroundEnds (takeAttempt s))

end Sys2Proof.Machine
end

