-- ==== Sys2Proof/Machine/JobSteps.lean ====
section
/-!
DEFINITION. The meanings of the job engine's steps: SUBMIT, CANCEL, TAKE_COMPLETION, JOB_STATUS, GRANT, RESPONSE_TIMER_EXPIRY,
WAIT_TIMER_EXPIRY and TENURE_TIMER_EXPIRY (R112 to R139); of the delivery unit's TAKE_DELIVERY (R105); and of the hold list's
HOLD_ENTRY_EXPIRY (R145).
-/

namespace Sys2Proof.Machine

/-! ### SUBMIT -/

/-- The distinct buffers that the SEND orders of a list name, in ascending order (R115). -/
def sendBuffers (orders : List Order) : List BufferId := (List.finRange 96).filter fun b => orders.any fun o => o.buffer? = some b

/-- The header read of SUBMIT: word 0 of each buffer in the order given, with the header each gives (R115). -/
def readHeaders : List BufferId → State → List (BufferId × Header) × State
  | [], s => ([], s)
  | b :: rest, s =>
    let r := readWord (wordOf b 0) s
    let q := readHeaders rest r.2
    ((b, headerOf r.1) :: q.1, q.2)

/-- An order with its cached header (R112, R115). -/
def cacheHeader (headers : List (BufferId × Header)) (o : Order) : JobOrder :=
  ⟨o, o.buffer?.bind fun b => headers.lookup b⟩

/-- A SUBMIT that has passed every check (R116). -/
def takeJob (m : Master) (orders : List JobOrder) (buffers : List BufferId) (s : State) : Reply :=
  let tag := newTag m s
  let job : Job := ⟨m, tag, orders, 0, 0, 0, none, .none, none, none⟩
  ⟨.ok, [tag],
    { s with
      store := buffers.foldl (fun st b => st.setState b (.inJob m tag)) s.store,
      jobs := { s.jobs with outbound := s.jobs.outbound.modify m (· ++ [job]), tagCounter := s.jobs.tagCounter.set m (tag + 1) } }⟩

/-- SUBMIT (R114, R115, R116). -/
def submit (m : Master) (count : Byte) (orders : List OrderBytes) (s : State) : Reply :=
  let parsed := orders.map parseOrder
  if submitOrderCount count = 0 || parsed.contains .badArg then refuse .badArg s
  else if parsed.contains .badBuffer then refuse .badBuffer s
  else
    let list := parsed.filterMap ParsedOrder.order?
    let buffers := sendBuffers list
    if buffers.any fun b => (s.store.buffer b).state ≠ .owned m then refuse .notYours s
    else if Config.jobCapacity ≤ jobCount m s then refuse .full s
    else
      let r := readHeaders buffers s
      if buffers.any fun b => (r.2.store.buffer b).damaged then refuse .damaged r.2
      else if r.1.any fun h => h.2.bad then refuse .badFrame r.2
      else takeJob m (list.map (cacheHeader r.1)) buffers r.2

def execSubmit (m : Master) (count : Byte) (orders : List OrderBytes) (s : State) : Host.Outcome State Fault Refusal :=
  .next (commandStep m 0x40 (count :: orders.flatMap bytesOfOrder) (submit m count orders) s)

/-! ### CANCEL, TAKE_COMPLETION and JOB_STATUS -/

/-- CANCEL of a QUEUED job (R132). -/
def cancelQueued (m : Master) (tag : Byte) (s : State) : State :=
  complete m ⟨tag, .cancelled, none, 0, .none, none, s.timeBase⟩
    { s with
      store := s.store.returnJob m tag,
      jobs := { s.jobs with outbound := s.jobs.outbound.modify m fun q => q.filter fun j => j.tag ≠ tag } }

/-- CANCEL (R131 to R134). -/
def cancel (m : Master) (tag : Byte) (s : State) : Reply :=
  if (s.jobs.outbound.get m).any fun j => j.tag = tag then ⟨.ok, [], cancelQueued m tag s⟩
  else
    match s.jobs.running with
    | some r => if r.job.master = m ∧ r.job.tag = tag then ⟨.ok, [], endInProgress .cancelled s⟩ else refuse .notFound s
    | none => refuse .notFound s

def execCancel (m : Master) (tag : Byte) (s : State) : Host.Outcome State Fault Refusal :=
  .next (commandStep m 0x41 [tag] (cancel m tag) s)

/-- TAKE COMPLETION (R130, R173). -/
def takeCompletion (m : Master) (s : State) : Reply :=
  match s.jobs.completions.get m with
  | [] => refuse .empty s
  | c :: rest =>
    ⟨.ok, natByte rest.length :: c.bytes, { s with jobs := { s.jobs with completions := s.jobs.completions.set m rest } }⟩

def execTakeCompletion (m : Master) (s : State) : Host.Outcome State Fault Refusal :=
  .next (commandStep m 0x42 [] (takeCompletion m) s)

/-- JOB STATUS (R139, R169). -/
def jobStatus (m : Master) (s : State) : Reply :=
  let running := match s.jobs.running with
    | some r => if r.job.master = m then [1, r.job.tag, natByte r.job.index] else [0, 0, 0]
    | none => [0, 0, 0]
  ⟨.ok,
    [natByte (s.jobs.outbound.get m).length, natByte (s.jobs.completions.get m).length] ++ running ++
      halfBytes (responseTimerValue s),
    s⟩

def execJobStatus (m : Master) (s : State) : Host.Outcome State Fault Refusal :=
  .next (commandStep m 0x43 [] (jobStatus m) s)

/-! ### GRANT and the timers -/

/-- The grant of the line to the head job of a master (R117). A SEND that the grant makes due begins its first attempt after the
grant, so that a hold handed off together with the grant, the grant taken first, fails it (R147; assumption log 17). -/
def grantTo (m : Master) (j : Job) (rest : List Job) (s : State) : State :=
  orderReached orderFuel
    { s with jobs := { s.jobs with
      outbound := s.jobs.outbound.set m rest,
      running := some ⟨j, tenureLimit s.line.settings, .send⟩,
      pointer := m.next } }

/-- GRANT: the tenure arbiter grants when its conditions hold together, and otherwise makes no grant (R117; assumption log
5). -/
def execGrant (s : State) : Host.Outcome State Fault Refusal :=
  if s.jobs.running.isNone && s.line.state.isUp && !s.line.settings.listenOnly then
    match chosen s with
    | some (m, j, rest) => .next (grantTo m j rest s)
    | none => .next s
  else .next s

/-- The AWAIT in progress ends SILENT and the next order is due; without an AWAIT there is no response timer (R122, R123;
assumption logs 4, 5). -/
def responseExpires (s : State) : State :=
  match s.jobs.running.map Running.doing with
  | some (.await _ remaining) => nextOrder (silenceAwait (lineTime remaining s))
  | _ => s

/-- RESPONSE_TIMER_EXPIRY (R122; assumption log 17). -/
def execResponseTimerExpiry (s : State) : Host.Outcome State Fault Refusal := .next (responseExpires (takeAttempt s))

/-- The WAIT in progress finishes and the next order is due; without a WAIT there is no wait timer (R125; assumption logs 4, 5). -/
def waitExpires (s : State) : State :=
  match s.jobs.running.map Running.doing with
  | some (.wait remaining) => nextOrder (lineTime remaining s)
  | _ => s

/-- WAIT_TIMER_EXPIRY (R125; assumption log 17). -/
def execWaitTimerExpiry (s : State) : Host.Outcome State Fault Refusal := .next (waitExpires (takeAttempt s))

/-- The tenure timer of the running job reaches 0; without a running job it does not run (R127; assumption logs 4, 5). -/
def tenureExpires (s : State) : State :=
  match s.jobs.running with
  | some r => endInProgress .tenureLimit (lineTime r.tenure s)
  | none => s

/-- TENURE_TIMER_EXPIRY (R127; assumption log 17). -/
def execTenureTimerExpiry (s : State) : Host.Outcome State Fault Refusal := .next (tenureExpires (takeAttempt s))

/-! ### TAKE_DELIVERY -/

/-- A master moves from the pending set to the holder set of a DELIVERED buffer (R6, R105). -/
def Store.takeFrom (st : Store) (b : BufferId) (m : Master) : Store :=
  match (st.buffer b).state with
  | .delivered pending holders => st.setState b (.delivered (MasterSet.erase pending m) (MasterSet.insert holders m))
  | _ => st

/-- TAKE DELIVERY (R105, R172). -/
def takeDelivery (m : Master) (s : State) : Reply :=
  match s.delivery.inbound.get m with
  | [] => refuse .empty s
  | e :: rest =>
    ⟨.ok, natByte rest.length :: e.bytes,
      { s with
        delivery := { s.delivery with inbound := s.delivery.inbound.set m rest },
        store := s.store.takeFrom e.buffer m }⟩

def execTakeDelivery (m : Master) (s : State) : Host.Outcome State Fault Refusal :=
  .next (commandStep m 0x50 [] (takeDelivery m) s)

/-! ### HOLD_ENTRY_EXPIRY -/

/-- The least remaining time passes, and every entry whose remaining time is then 0 is removed; an empty list has no entry to expire
(R145; assumption logs 4, 5). -/
def holdExpires (s : State) : State :=
  match leastEntry s.holds with
  | none => s
  | some e =>
    let s1 := lineTime e.remaining s
    { s1 with holds := s1.holds.filter fun f => f.remaining ≠ 0 }

/-- HOLD_ENTRY_EXPIRY (R145; assumption log 17). -/
def execHoldEntryExpiry (s : State) : Host.Outcome State Fault Refusal := .next (holdExpires (takeAttempt s))

end Sys2Proof.Machine
end

