-- ==== Sys2Proof/Machine/Ports.lean ====
section
/-!
DEFINITION. The meanings of the notice commands NOTICE, RELEASE and MASK (R154 to R157), of STATS and TIME (R182, R179), of the
time base's SYNC_EDGE and TIME_BASE_INCREMENT (R177, R178), of the port commands IDENT, PORT_SET, PORT_GET and PORT_RESET (R174
to R176), of the transaction's steps CS_FALLS, CS_RISES, UNKNOWN_COMMAND, BYTE_ARRIVES and ANSWER_BYTE_CLOCKED_OUT (R162 to
R167), and of POWER_ON and START_UP_CLEAR_END (R26, R27).
-/

namespace Sys2Proof.Machine

/-! ### Notices -/

/-- Whether a master holds a buffer: OWNED by it, IN-JOB in a job of it, or DELIVERED to it (R155). -/
def BufferState.heldBy (m : Master) : BufferState → Bool
  | .owned o => o = m
  | .inJob o _ => o = m
  | .delivered pending holders => pending.get m || holders.get m
  | _ => false

/-- The number of damaged buffers a master holds (R155). -/
def damagedHeld (m : Master) (s : State) : Nat :=
  ((List.finRange 96).filter fun b => (s.store.buffer b).damaged && (s.store.buffer b).state.heldBy m).length

/-- The result of NOTICE: the source taken and the summary (R155, R169). -/
def noticeResult (m : Master) (source : Option NoticeSource) (s : State) : List Byte :=
  [(match source with | some n => natByte n.number | none => 0), s.line.state.byte, natByte (damagedHeld m s),
    natByte (s.jobs.completions.get m).length, natByte (s.delivery.inbound.get m).length,
    if source = some .missed then (s.counters.get m).missed else 0]

/-- NOTICE (R154). -/
def notice (m : Master) (s : State) : Reply :=
  match (s.notices.get m).next with
  | some src =>
    let s1 := { s with notices := s.notices.modify m fun n => n.take src }
    ⟨.ok, noticeResult m (some src) s1, s1⟩
  | none => ⟨.ok, noticeResult m none s, s⟩

def execNotice (m : Master) (s : State) : Host.Outcome State Fault Refusal :=
  .next (commandStep m 0x60 [] (notice m) s)

/-- RELEASE (R156). -/
def release (m : Master) (source : Byte) (s : State) : Reply :=
  match NoticeSource.ofNumber source.toNat with
  | none => refuse .badArg s
  | some src =>
    if src ∈ (s.notices.get m).active then ⟨.ok, [], { s with notices := s.notices.modify m fun n => n.drop src }⟩
    else refuse .notActive s

def execRelease (m : Master) (source : Byte) (s : State) : Host.Outcome State Fault Refusal :=
  .next (commandStep m 0x61 [source] (release m source) s)

/-- The enables of a mask byte: bit s − 1 for source s (R169). -/
def enablesOf (e : Byte) : PerSource := ⟨e.getLsbD 0, e.getLsbD 1, e.getLsbD 2, e.getLsbD 3, e.getLsbD 4⟩

/-- MASK (R157). -/
def mask (m : Master) (enables : Byte) (s : State) : Reply :=
  if 32 ≤ enables.toNat then refuse .badArg s
  else ⟨.ok, [], { s with notices := s.notices.modify m fun n => { n with enable := enablesOf enables } }⟩

def execMask (m : Master) (enables : Byte) (s : State) : Host.Outcome State Fault Refusal :=
  .next (commandStep m 0x62 [enables] (mask m enables) s)

/-! ### Statistics and the time base -/

/-- STATS (R182). -/
def stats (m : Master) (s : State) : Reply :=
  ⟨.ok, (s.counters.get m).bytes, { s with counters := s.counters.set m Counters.reset }⟩

def execStats (m : Master) (s : State) : Host.Outcome State Fault Refusal :=
  .next (commandStep m 0x70 [] (stats m) s)

/-- TIME (R179). -/
def time (s : State) : Reply := ⟨.ok, timeBytes s.timeBase, s⟩

def execTime (m : Master) (s : State) : Host.Outcome State Fault Refusal :=
  .next (commandStep m 0x71 [] time s)

/-- Whether an edge of SYNC is a sync edge under the sync field (R178). -/
def SyncMode.selects : SyncMode → Edge → Bool
  | off, _ => false
  | rising, e => e = .rising
  | falling, e => e = .falling

/-- SYNC_EDGE: a sync edge zeroes the time base; an edge during the start-up clear has no effect (R178). -/
def execSyncEdge (edge : Edge) (s : State) : Host.Outcome State Fault Refusal :=
  .next (if !s.clearing && s.line.settings.sync.selects edge then { s with timeBase := 0 } else s)

/-- The end of a microsecond: the time base rises by one, wrapping to 0; it does not count during the start-up clear (R177). -/
def countMicrosecond (s : State) : State := if s.clearing then s else { s with timeBase := s.timeBase + 1 }

/-- TIME_BASE_INCREMENT (R177; assumption log 17). -/
def execTimeBaseIncrement (s : State) : Host.Outcome State Fault Refusal := .next (countMicrosecond (takeAttempt s))

/-! ### The port commands -/

/-- IDENT (R174). -/
def ident (m : Master) (s : State) : Reply := ⟨.ok, [0x4C, 0x41, 0x04, 0x48, 0x01, natByte m.number], s⟩

def execIdent (m : Master) (s : State) : Host.Outcome State Fault Refusal :=
  .next (commandStep m 0x01 [] (ident m) s)

def setPortSettings (m : Master) (r : PortSettings) (s : State) : State :=
  { s with ports := s.ports.modify m fun p => { p with settings := r } }

/-- PORT SET (R175). -/
def portSet (m : Master) (quota busyThreshold acceptBroadcast : Byte) (s : State) : Reply :=
  match portSettingsOf quota busyThreshold acceptBroadcast with
  | none => refuse .badArg s
  | some r => ⟨.ok, [], setPortSettings m r s⟩

def execPortSet (m : Master) (quota busyThreshold acceptBroadcast : Byte) (s : State) : Host.Outcome State Fault Refusal :=
  .next (commandStep m 0x02 [quota, busyThreshold, acceptBroadcast] (portSet m quota busyThreshold acceptBroadcast) s)

/-- PORT GET (R175). -/
def portGet (m : Master) (s : State) : Reply :=
  let r := (s.ports.get m).settings
  ⟨.ok, [natByte r.quota, natByte r.busyThreshold, boolByte r.acceptBroadcast], s⟩

def execPortGet (m : Master) (s : State) : Host.Outcome State Fault Refusal :=
  .next (commandStep m 0x03 [] (portGet m) s)

/-! ### PORT_RESET -/

/-- The job engine's part of a port reset: the master's running job is discarded and its attempt cut, its queued jobs and
completions are discarded, and its tag counter is zeroed (R56, R137, R138). -/
def resetJobs (m : Master) (s : State) : State :=
  let s1 := match s.jobs.running with
    | some r => if r.job.master = m then setRunning none (cutJob s) else s
    | none => s
  { s1 with jobs := { s1.jobs with
      outbound := s1.jobs.outbound.set m [],
      completions := s1.jobs.completions.set m [],
      tagCounter := s1.jobs.tagCounter.set m 0 } }

/-- The delivery unit's part of a port reset (R111). -/
def resetDelivery (m : Master) (s : State) : State :=
  { s with delivery := ⟨s.delivery.inbound.set m [], s.delivery.late.set m none⟩ }

/-- A DELIVERED buffer's state after a master has left both its sets (R28). -/
def BufferState.without (m : Master) : BufferState → BufferState
  | .delivered pending holders => .delivered (MasterSet.erase pending m) (MasterSet.erase holders m)
  | v => v

/-- Whether a buffer leaves use in a port reset of `m`, after `m` has left the sets of DELIVERED buffers: the master's own and
its jobs' buffers, the DELIVERED buffers left with both sets empty, and, when the reset takes the line out of use, the FILLING
buffer of the reception it abandons (R28, R63, R66). -/
def BufferState.releasedBy (m : Master) (lineGoes : Bool) : BufferState → Bool
  | .owned o => o = m
  | .inJob o _ => o = m
  | .delivered pending holders => pending.isEmpty && holders.isEmpty
  | .filling => lineGoes
  | _ => false

/-- The frame store's part of a port reset: the buffers that leave use go in ascending order of buffer number (R9, R28). -/
def Store.resetPort (st : Store) (m : Master) (lineGoes : Bool) : Store :=
  let st1 : Store := { st with buffers := st.buffers.map fun r => { r with state := r.state.without m } }
  st1.leaveUseAll ((List.finRange 96).filter fun b => (st1.buffer b).state.releasedBy m lineGoes)

/-- Whether a master's leaving the want set takes the line to DOWN (R65, R66). -/
def takesLineDown (m : Master) (s : State) : Bool :=
  (MasterSet.erase s.line.want m).isEmpty && !s.line.state.isDown

/-- The frame store's and the receiver's part of a port reset: a reception that the reset abandons is gone with its FILLING
buffer (R28, R63). -/
def resetStore (m : Master) (s : State) : State :=
  let goes := takesLineDown m s
  { s with store := s.store.resetPort m goes, receiver := if goes then none else s.receiver }

/-- The line controller's part of a port reset (R66, R86). -/
def resetLine (m : Master) (s : State) : State :=
  let s1 := leaveWantSet m s
  { s1 with line := { s1.line with flags := s1.line.flags.set m LineFlags.reset } }

/-- The notice unit's, the statistics block's and the port's part of a port reset, after every other (R160, R184, R175). -/
def resetReports (m : Master) (s : State) : State :=
  setPortSettings m PortSettings.reset
    { s with notices := s.notices.set m Notices.reset, counters := s.counters.set m Counters.reset }

/-- PORT RESET: one event across every block (R176). -/
def portReset (m : Master) (s : State) : Reply :=
  let s1 := resetDelivery m (resetJobs m s)
  let s2 := setTable (withoutMaster s1.table m) s1
  ⟨.ok, [], resetReports m (resetLine m (resetStore m s2))⟩

def execPortReset (m : Master) (s : State) : Host.Outcome State Fault Refusal :=
  .next (commandStep m 0x04 [] (portReset m) s)

/-! ### The transaction -/

/-- CS_FALLS: a port whose CS# falls enters CODE, but stays DESELECTED while RESET# is low; a CS# that is low already cannot fall
(R162; assumption log 5). -/
def execCsFalls (m : Master) (s : State) : Host.Outcome State Fault Refusal :=
  .next (if (s.ports.get m).csLow then s
    else { s with ports := s.ports.modify m fun p =>
      { p with csLow := true, transaction := if s.resetLow then .deselected else .code } })

/-- CS_RISES: the transaction ends and the port is DESELECTED (R162, R165). -/
def execCsRises (m : Master) (s : State) : Host.Outcome State Fault Refusal :=
  .next { s with ports := s.ports.modify m fun p => { p with csLow := false, transaction := .deselected } }

/-- An unknown code answered: the turnaround byte and UNKNOWN COMMAND (R166). That the status is the third byte of the transaction, as
R164 and R166's own order say, and not the second, as R166's last sentence says, is the model's choice (assumption log 18). -/
def answerUnknown (m : Master) (s : State) : State := setTransaction m (.answer (answerBytes .unknownCommand [])) s

/-- UNKNOWN_COMMAND: a code that names no command arrives on a port in CODE (R166); with a code of R169's table, or on a port
in another state, the event does not arise (assumption log 5). -/
def execUnknownCommand (m : Master) (code : Byte) (s : State) : Host.Outcome State Fault Refusal :=
  .next (if (s.ports.get m).transaction = .code ∧ isCommandCode code = false then answerUnknown m s else s)

/-- What taking a command does, for each step that is a command of a port. -/
def effectOf : Instr → Option (State → Reply)
  | .ident m => some (ident m)
  | .portSet m q t b => some (portSet m q t b)
  | .portGet m => some (portGet m)
  | .portReset m => some (portReset m)
  | .wantLine m => some (wantLine m)
  | .unwantLine m => some (unwantLine m)
  | .lineSet m r => some (lineSet m r)
  | .lineGet _ => some lineGet
  | .lineState m => some (lineState m)
  | .relearn _ => some relearn
  | .claim m a => some (claim m a)
  | .drop m a => some (drop m a)
  | .join m a => some (join m a)
  | .leave m a => some (leave m a)
  | .tableRead _ i => some (tableRead i)
  | .alloc m => some (alloc m)
  | .free m b => some (free m b)
  | .adopt m b => some (adopt m b)
  | .write m b o c d => some (write m b o c d)
  | .read m b o c => some (read m b o c)
  | .scrub m b => some (scrub m b)
  | .storeStatus m => some (storeStatus m)
  | .submit m c o => some (submit m c o)
  | .cancel m t => some (cancel m t)
  | .takeCompletion m => some (takeCompletion m)
  | .jobStatus m => some (jobStatus m)
  | .takeDelivery m => some (takeDelivery m)
  | .notice m => some (notice m)
  | .release m n => some (release m n)
  | .mask m e => some (mask m e)
  | .stats m => some (stats m)
  | .time _ => some time
  | .powerOn _ => none
  | .startUpClearEnd => none
  | .storeUpset _ _ => none
  | .patrolVisit => none
  | .csFalls _ => none
  | .csRises _ => none
  | .unknownCommand _ _ => none
  | .addressCharacter _ _ _ _ => none
  | .bodyCharacter _ _ _ _ => none
  | .frameEnd => none
  | .attemptBeginsSending => none
  | .automaticBusyStart => none
  | .characterSent _ _ => none
  | .deRelease => none
  | .grant => none
  | .responseTimerExpiry => none
  | .waitTimerExpiry => none
  | .tenureTimerExpiry => none
  | .silenceTimeout => none
  | .qualificationWindowExpiry => none
  | .holdEntryExpiry => none
  | .syncEdge _ => none
  | .timeBaseIncrement => none
  | .byteArrives _ _ => none
  | .answerByteClockedOut _ => none

/-- A command code and the argument bytes that have arrived, the last of them just now: the port takes the command if they are
complete, and counts on otherwise (R163). -/
def takeOrCount (m : Master) (code : Byte) (args : List Byte) (s : State) : State :=
  match (decodeCommand m code args).bind effectOf with
  | some effect => takeCommand m effect s
  | none => setTransaction m (.arguments code args) s

/-- A byte arrives on SDI (R162, R163, R166, R167). -/
def byteArrives (m : Master) (byte : Byte) (s : State) : State :=
  match (s.ports.get m).transaction with
  | .code => if isCommandCode byte then takeOrCount m byte [] s else answerUnknown m s
  | .arguments code args => takeOrCount m code (args ++ [byte]) s
  | _ => s

/-- BYTE_ARRIVES. The table's row is a byte that takes no command; a byte that does take one is taken as R163 states
(assumption log 5). -/
def execByteArrives (m : Master) (byte : Byte) (s : State) : Host.Outcome State Fault Refusal :=
  .next (byteArrives m byte s)

/-- A transaction after one byte of its answer has been clocked out (R162, R164). -/
def Transaction.clocked : Transaction → Transaction
  | .answer (_ :: b :: rest) => .answer (b :: rest)
  | .answer _ => .spent
  | t => t

/-- ANSWER_BYTE_CLOCKED_OUT (R162, R164). -/
def execAnswerByteClockedOut (m : Master) (s : State) : Host.Outcome State Fault Refusal :=
  .next { s with ports := s.ports.modify m fun p => { p with transaction := p.transaction.clocked } }

/-! ### The empty queue -/

/-- What a step on an empty queue does: one bit time passes (assumption logs 4, 17). -/
def emptyQueueStep (s : State) : State := lineTime 1 (takeAttempt s)

/-! ### Power-on -/

/-- POWER_ON: the state of reset, RESET# still low or released, with the CS# inputs as the masters drive them and the model's own
fields kept (R26, R162; assumption log 1). -/
def execPowerOn (s : State) (held : Bool := false) : Host.Outcome State Fault Refusal :=
  .next { State.reset with
    resetLow := held,
    ports := s.ports.map fun p => { Port.reset with csLow := p.csLow }, fresh := s.fresh, pending := s.pending }

/-- START_UP_CLEAR_END: every block holds its power-on values, the words that store upsets reached after their clearing writes
stay single or double upset, transactions in progress go on, and the ports take commands (R26, R27, R167, R177). When no clear
is running none ends, and none runs while RESET# is low (assumption log 5). -/
def execStartUpClearEnd (s : State) : Host.Outcome State Fault Refusal :=
  .next (if s.clearing && !s.resetLow then
    { State.reset with
      clearing := false,
      store := { Store.reset with upsets := s.store.upsets },
      ports := s.ports.map fun p => { p with settings := PortSettings.reset },
      fresh := s.fresh,
      pending := s.pending }
    else s)

end Sys2Proof.Machine
end

