-- ==== Sys2Proof/Machine/Dispatch.lean ====
section
/-!
DEFINITION. What each step does: one arm per constructor of `Instr`, each one call of the step's meaning.
-/

namespace Sys2Proof.Machine

def exec (i : Instr) (s : State) : Host.Outcome State Fault Refusal :=
  match i with
  | .powerOn held => Sys2Proof.Machine.execPowerOn s held
  | .startUpClearEnd => Sys2Proof.Machine.execStartUpClearEnd s
  | .storeUpset word bit => Sys2Proof.Machine.execStoreUpset word bit s
  | .patrolVisit => Sys2Proof.Machine.execPatrolVisit s
  | .csFalls m => Sys2Proof.Machine.execCsFalls m s
  | .csRises m => Sys2Proof.Machine.execCsRises m s
  | .unknownCommand m code => Sys2Proof.Machine.execUnknownCommand m code s
  | .ident m => Sys2Proof.Machine.execIdent m s
  | .portSet m quota busyThreshold acceptBroadcast => Sys2Proof.Machine.execPortSet m quota busyThreshold acceptBroadcast s
  | .portGet m => Sys2Proof.Machine.execPortGet m s
  | .portReset m => Sys2Proof.Machine.execPortReset m s
  | .wantLine m => Sys2Proof.Machine.execWantLine m s
  | .unwantLine m => Sys2Proof.Machine.execUnwantLine m s
  | .lineSet m record => Sys2Proof.Machine.execLineSet m record s
  | .lineGet m => Sys2Proof.Machine.execLineGet m s
  | .lineState m => Sys2Proof.Machine.execLineState m s
  | .relearn m => Sys2Proof.Machine.execRelearn m s
  | .claim m address => Sys2Proof.Machine.execClaim m address s
  | .drop m address => Sys2Proof.Machine.execDrop m address s
  | .join m address => Sys2Proof.Machine.execJoin m address s
  | .leave m address => Sys2Proof.Machine.execLeave m address s
  | .tableRead m index => Sys2Proof.Machine.execTableRead m index s
  | .alloc m => Sys2Proof.Machine.execAlloc m s
  | .free m buffer => Sys2Proof.Machine.execFree m buffer s
  | .adopt m buffer => Sys2Proof.Machine.execAdopt m buffer s
  | .write m buffer offset count data => Sys2Proof.Machine.execWrite m buffer offset count data s
  | .read m buffer offset count => Sys2Proof.Machine.execRead m buffer offset count s
  | .scrub m buffer => Sys2Proof.Machine.execScrub m buffer s
  | .storeStatus m => Sys2Proof.Machine.execStoreStatus m s
  | .submit m count orders => Sys2Proof.Machine.execSubmit m count orders s
  | .cancel m tag => Sys2Proof.Machine.execCancel m tag s
  | .takeCompletion m => Sys2Proof.Machine.execTakeCompletion m s
  | .jobStatus m => Sys2Proof.Machine.execJobStatus m s
  | .takeDelivery m => Sys2Proof.Machine.execTakeDelivery m s
  | .notice m => Sys2Proof.Machine.execNotice m s
  | .release m source => Sys2Proof.Machine.execRelease m source s
  | .mask m enables => Sys2Proof.Machine.execMask m enables s
  | .stats m => Sys2Proof.Machine.execStats m s
  | .time m => Sys2Proof.Machine.execTime m s
  | .addressCharacter data stop runs low => Sys2Proof.Machine.execAddressCharacter data stop runs s low
  | .bodyCharacter data stop runs low => Sys2Proof.Machine.execBodyCharacter data stop runs s low
  | .frameEnd => Sys2Proof.Machine.execFrameEnd s
  | .attemptBeginsSending => Sys2Proof.Machine.execAttemptBeginsSending s
  | .automaticBusyStart => Sys2Proof.Machine.execAutomaticBusyStart s
  | .characterSent echo low => Sys2Proof.Machine.execCharacterSent echo s low
  | .deRelease => Sys2Proof.Machine.execDeRelease s
  | .grant => Sys2Proof.Machine.execGrant s
  | .responseTimerExpiry => Sys2Proof.Machine.execResponseTimerExpiry s
  | .waitTimerExpiry => Sys2Proof.Machine.execWaitTimerExpiry s
  | .tenureTimerExpiry => Sys2Proof.Machine.execTenureTimerExpiry s
  | .silenceTimeout => Sys2Proof.Machine.execSilenceTimeout s
  | .qualificationWindowExpiry => Sys2Proof.Machine.execQualificationWindowExpiry s
  | .holdEntryExpiry => Sys2Proof.Machine.execHoldEntryExpiry s
  | .syncEdge edge => Sys2Proof.Machine.execSyncEdge edge s
  | .timeBaseIncrement => Sys2Proof.Machine.execTimeBaseIncrement s
  | .byteArrives m byte => Sys2Proof.Machine.execByteArrives m byte s
  | .answerByteClockedOut m => Sys2Proof.Machine.execAnswerByteClockedOut m s

end Sys2Proof.Machine
end

