-- ==== Sys2Proof/Machine/Step.lean ====
section
/-!
DEFINITION. One step of the part: the command at the front of the queue is taken; on an empty queue one bit time passes on the
line.
-/

namespace Sys2Proof.Machine

/-- One step. The front of the queue is taken and run on the state with the queue's rest. On an empty queue no event arises and
one bit time passes, before which an attempt that is due begins and in which only the line timers move (assumption logs 4, 17). -/
def step (s : State) : Host.Outcome State Fault Refusal :=
  match s.pending with
  | [] => .next (emptyQueueStep s)
  | i :: rest => exec i { s with pending := rest }

/-- The state with the step that a table word spells at the front of the queue. The table gives no row any bits, so no word
spells one (`decodeTableWord`). -/
def State.withFetchWord (s : State) (nbits w : Nat) : State :=
  match decodeTableWord nbits w with
  | some i => { s with pending := i :: s.pending }
  | none => s

end Sys2Proof.Machine
end

