-- ==== Sys2Proof/Safety.lean ====
section
/-!
DEFINITION. The laws that the spec states of the part at every moment, each as a property of one state. The certificates say
that every step keeps them.
-/

namespace Sys2Proof.Machine

/-- The form in which the store's bytes and its upset words are kept: addresses and words strictly rising, no byte listed that
reads 0, and no address beyond the store (R1, 00_scope). -/
def StoreForm (s : State) : Prop :=
  Memory.wf s.store.mem = true ∧ (∀ c ∈ s.store.mem, c.1 < 24576) ∧
    s.store.upsets.Pairwise fun u v => u.word < v.word

/-- The number of masters in a set. -/
def MasterSet.size (ms : MasterSet) : Nat := ms.a.toNat + ms.b.toNat + ms.c.toNat + ms.d.toNat

/-- An entry's address is unicast with exactly one subscriber, or group with at least one (R30). -/
def TableEntry.lawful (e : TableEntry) : Prop :=
  (isUnicast e.address = true ∧ MasterSet.size e.subscribers = 1) ∨
    (isGroup e.address = true ∧ 1 ≤ MasterSet.size e.subscribers)

/-- The law of the address table (R30). -/
def TableLaw (s : State) : Prop :=
  s.table.length ≤ 16 ∧ (s.table.map TableEntry.address).Nodup ∧ ∀ e ∈ s.table, e.lawful

/-- The ranges of the shared settings record (R67). -/
def Settings.inRange (r : Settings) : Prop :=
  (4 ≤ r.accessGap ∧ r.accessGap ≤ 15) ∧ r.turnaround ≤ 15 ∧ r.retryLimit ≤ 7 ∧
    (6 ≤ r.tenureExponent ∧ r.tenureExponent ≤ 16) ∧ (8 ≤ r.silenceExponent ∧ r.silenceExponent ≤ 20) ∧
    (6 ≤ r.holdExponent ∧ r.holdExponent ≤ 16) ∧ r.receiveReserve ≤ 32 ∧
    (r.rateMode = .learn → r.permitted ≠ 0)

/-- The ranges of a port settings record (R175). -/
def PortSettings.inRange (r : PortSettings) : Prop :=
  (1 ≤ r.quota ∧ r.quota ≤ 96) ∧ 1 ≤ r.busyThreshold ∧ r.busyThreshold ≤ 16

/-- Every settings record lies in its ranges (R67, R68, R175). -/
def SettingsLaw (s : State) : Prop :=
  s.line.settings.inRange ∧ ∀ m ∈ Master.all, (s.ports.get m).settings.inRange

/-- The laws of the line state: the line is DOWN exactly while the want set is empty (R64, R65), a job runs only while the line
is UP with listen-only off (R117), no frame is in progress while it is DOWN (R57), and a frame in progress has a buffer only
while it is UP and after a match (R58). -/
def LineLaw (s : State) : Prop :=
  s.line.want.isEmpty = s.line.state.isDown ∧
    (s.jobs.running ≠ none → s.line.state.isUp = true ∧ s.line.settings.listenOnly = false) ∧
    (s.line.state.isDown = true → s.receiver = none) ∧
    ∀ f ∈ s.receiver, f.buffer ≠ none → s.line.state.isUp = true ∧ f.matched = some true

/-- The law of the hold list: at most 8 distinct unicast stations, and none whenever the line state is not UP (R140). -/
def HoldLaw (s : State) : Prop :=
  s.holds.length ≤ 8 ∧ (s.holds.map HoldEntry.station).Nodup ∧ (∀ e ∈ s.holds, isUnicast e.station = true) ∧
    (s.line.state.isUp = false → s.holds = [])

/-- The law of the notice sources: a master's active sources, the most recently taken first, have falling priority, so in the
order in which they became active it rises strictly (R152). -/
def NoticeLaw (s : State) : Prop :=
  ∀ m ∈ Master.all, (s.notices.get m).active.Pairwise fun x y => x.number < y.number

/-- The law of the damaged-word table: at most 16 words, no word twice, each in a buffer whose damaged flag is set (R23). -/
def DamageLaw (s : State) : Prop :=
  s.store.damagedWords.length ≤ 16 ∧ s.store.damagedWords.Nodup ∧
    ∀ w ∈ s.store.damagedWords, (s.store.buffer (bufferOf w)).damaged = true

/-- The laws of the job records: at most eight jobs and completion entries of a master (R113), their tags distinct (R112), and a
QUEUED job in its own master's queue and without a reply buffer (R112, R113). -/
def JobLaw (s : State) : Prop :=
  ∀ m ∈ Master.all, jobCount m s ≤ 8 ∧ (tagsInUse m s).Nodup ∧
    ∀ j ∈ s.jobs.outbound.get m, j.master = m ∧ j.reply = none

/-- The buffers that the SEND orders of a job name. -/
def Job.sendBuffers (j : Job) : List BufferId := j.orders.filterMap fun o => o.order.buffer?

/-- A job's SEND buffers are IN-JOB of it (R6, R113). -/
def Job.holdsBuffers (j : Job) (st : Store) : Prop := ∀ b ∈ j.sendBuffers, (st.buffer b).state = .inJob j.master j.tag

/-- The laws of the buffer records: the free queue lists exactly the FREE buffers, each once (R5, R7); no FREE and no FILLING
buffer is damaged and every QUARANTINED one is (R22 to R24); the one FILLING buffer is that of the frame in progress (R58);
the buffers of QUEUED and RUNNING jobs are IN-JOB of them (R6); and a SEND whose first attempt is due is the RUNNING job's order in
progress (R147). -/
def BufferLaw (s : State) : Prop :=
  s.store.freeQueue.Nodup ∧
    (∀ b, b ∈ s.store.freeQueue ↔ (s.store.buffer b).state = .free) ∧
    (∀ b, (s.store.buffer b).state = .free → (s.store.buffer b).damaged = false) ∧
    (∀ b, (s.store.buffer b).state = .quarantined → (s.store.buffer b).damaged = true) ∧
    (∀ b, (s.store.buffer b).state = .filling → (s.store.buffer b).damaged = false) ∧
    (∀ b, (s.store.buffer b).state = .filling ↔ (s.receiver.bind Frame.buffer) = some b) ∧
    (∀ m ∈ Master.all, ∀ j ∈ s.jobs.outbound.get m, j.holdsBuffers s.store) ∧
    ∀ r ∈ s.jobs.running, r.job.holdsBuffers s.store ∧
      (∀ b ∈ r.job.reply, (s.store.buffer b).state = .inJob r.job.master r.job.tag ∧ b ∉ r.job.sendBuffers) ∧
      ∀ b h, r.doing = .due b h → ∃ header, r.job.orders[r.job.index]? = some ⟨.send b, header⟩

/-- The pending set of a buffer; no master is in it in any state but DELIVERED (R5). -/
def BufferState.pendingSet : BufferState → MasterSet
  | .delivered pending _ => pending
  | _ => MasterSet.empty

/-- The laws of the inbound queues: at most 16 entries, none for the same buffer as another, a master pending on a buffer exactly
while its queue has an entry for the buffer (R87), and a DELIVERED buffer's two sets not both empty (R106). -/
def DeliveryLaw (s : State) : Prop :=
  (∀ m ∈ Master.all, (s.delivery.inbound.get m).length ≤ 16 ∧
    ((s.delivery.inbound.get m).map DeliveryEntry.buffer).Nodup ∧
    ∀ b, b ∈ (s.delivery.inbound.get m).map DeliveryEntry.buffer ↔ (s.store.buffer b).state.pendingSet.get m = true) ∧
  ∀ b, (s.store.buffer b).state ≠ .delivered MasterSet.empty MasterSet.empty

/-- No SEND that a grant has made due has its first attempt still to begin (R147; assumption log 17). -/
def Settled (s : State) : Prop := ∀ r, s.jobs.running = some r → ∀ b h, r.doing ≠ .due b h

/-- A state right before the last byte of a command is taken: the start-up clear has ended, the port awaits exactly what is
missing of the command's bytes (R163, R167), and no attempt is due. -/
def Ready (m : Master) (code : Byte) (args : List Byte) (s : State) : Prop :=
  s.clearing = false ∧ awaits (s.ports.get m) code args = true ∧ Settled s

/-- A state in which a frame end takes no attempt before it: none is due, or the end gap is met already, so that the frame end falls
together with the grant that has made one due (R147). -/
def FrameEndSettled (s : State) : Prop := Settled s ∨ s.line.low + (22 - s.line.idle) = 0

/-- The steps before which an attempt that is due begins: those in which line time or a microsecond passes, and the taking of a
command (assumption log 17). -/
def BeginsAttempt (s : State) : Instr → Prop
  | .addressCharacter _ _ _ _ | .bodyCharacter _ _ _ _ | .attemptBeginsSending | .automaticBusyStart | .characterSent _ _
  | .deRelease | .responseTimerExpiry | .waitTimerExpiry | .tenureTimerExpiry | .silenceTimeout | .qualificationWindowExpiry
  | .holdEntryExpiry | .timeBaseIncrement => True
  | .frameEnd => s.receiver ≠ none ∧ s.line.low + (22 - s.line.idle) ≠ 0
  | i => ∃ m code args, commandBytes i = some (m, code, args) ∧ s.clearing = false ∧
    awaits (s.ports.get m) code args = true

/-- A state whose port has just been given an answer with a status and results (R164). -/
def answered (m : Master) (status : Status) (results : List Byte) (s : State) : State :=
  setTransaction m (.answer (0x00 :: status.code :: results)) s

/-- The outcome with which the line's departure from UP ends a job: its pending end if one is recorded, else LINE LOST (R135). -/
def Job.departureOutcome (j : Job) : JobOutcome :=
  match j.pendingEnd with
  | some p => p.outcome
  | none => .lineLost

/-- The last AWAIT outcome and the late-reply records that the departure from UP leaves with a running job: an AWAIT in progress
has ended SILENT (R90, R135). -/
def Running.departureAwait (r : Running) : AwaitOutcome :=
  match r.doing with
  | .await _ _ => .silent
  | _ => r.job.lastAwait

def Running.departureLate (r : Running) (late : PerMaster (Option SendKey)) : PerMaster (Option SendKey) :=
  match r.doing with
  | .await key _ => late.set r.job.master (some key)
  | _ => late

/-- The store once a reception in progress has been abandoned: its FILLING buffer, if there is one, has left use (R63). -/
def abandonedStore (s : State) : Store :=
  match s.receiver.bind Frame.buffer with
  | some b => s.store.leaveUse b
  | none => s.store

/-- A buffer's record once the job of a RUNNING job's record, if there is one, has ended: the buffers IN-JOB of it are OWNED by its
master (R6, R128). -/
def BufferRecord.returned (r : BufferRecord) : Option Running → BufferRecord
  | some running =>
    if r.state = .inJob running.job.master running.job.tag then ⟨.owned running.job.master, r.damaged⟩ else r
  | none => r

/-- The completion entry of a job that the departure from UP ends (R129, R135). -/
def Running.departureEntry (r : Running) (now : BitVec 32) : Completion :=
  ⟨r.job.tag, r.job.departureOutcome, some r.job.index, r.job.steps, r.departureAwait, r.job.reply, now⟩

/-- Whether a RUNNING job, if there is one, is a master's. -/
def runsFor (m : Master) : Option Running → Bool
  | some r => r.job.master = m
  | none => false

/-- What the departure from UP has done to every block, `s` before it and `t` after it (R82, with R56, R63, R128, R135 and R146). The
frame on the wire, a job's or an automatic BUSY, is cut: of a sending frame the character in progress is the last;
`t` may have left UP for any state, so its line state, code and idle measurement are said elsewhere. -/
def LeftUp (s t : State) : Prop :=
  t = { s with
    line := t.line, store := t.store, notices := t.notices, receiver := none, holds := [],
    transmitter :=
      ⟨match s.transmitter.wire with
        | .none => .none
        | .sending f rest => .sending { f with cut := true } (rest.take 1)
        | .turnaround f left => .turnaround { f with cut := true } left, none, none⟩,
    jobs := { s.jobs with
      running := none,
      completions := match s.jobs.running with
        | none => s.jobs.completions
        | some r => s.jobs.completions.modify r.job.master (· ++ [r.departureEntry s.timeBase]) },
    delivery := { s.delivery with
      late := match s.jobs.running with
        | none => s.delivery.late
        | some r => r.departureLate s.delivery.late } } ∧
  (∀ m ∈ Master.all, t.line.flags.get m = { s.line.flags.get m with upKept := false }) ∧
  (∀ m ∈ Master.all, t.notices.get m = { s.notices.get m with
    request := { (s.notices.get m).request with
      line := true,
      completion := (s.notices.get m).request.completion || runsFor m s.jobs.running } }) ∧
  t.store = { abandonedStore s with buffers := t.store.buffers } ∧
  ∀ b, t.store.buffer b = ((abandonedStore s).buffer b).returned s.jobs.running

/-- The state in which a good frame that ends on a line that is UP is delivered: the end gap is met, no frame is in progress, and in
LEARN mode the bad-frame run has ended (R48, R62, R81). -/
def goodFrameEnded (s : State) : State :=
  let passed := lineTime (s.line.low + (22 - s.line.idle)) s
  { passed with
    receiver := none,
    line := { passed.line with state := match passed.line.state with
      | .up silence bad => .up silence (if s.line.settings.rateMode = .learn then 0 else bad)
      | l => l } }

/-- Whether an address character matches: 0xFF if some master's accept broadcast is on, 0x00 never, any other address if the table
has an entry for it or it is the source of the capture key of an AWAIT in progress (R39, R92). -/
def Matches (data : Byte) (s : State) : Prop :=
  if data = 0xFF then ∃ m, (s.ports.get m).settings.acceptBroadcast = true
  else data ≠ 0 ∧ ((∃ e ∈ s.table, e.address = data) ∨
    ∃ r key left, s.jobs.running = some r ∧ r.doing = .await key left ∧ key.source = data)

/-- What an address character that begins a frame does, `s` before it and `t` after it: in UP a match claims the head of the free
queue as FILLING, or goes on without a buffer with the queue empty, and no match claims none; in SEEK and QUALIFY there is no lookup
(R58). -/
def FrameBegun (data : Byte) (stop : Bool) (s t : State) : Prop :=
  let begun (looked : Option Bool) : Frame :=
    ⟨[data], 1, crcByte 0xFFFF data, looked, none, [], [], if stop then none else some .framing⟩
  (s.line.state.isUp = false → t = { s with receiver := some (begun none) }) ∧
  (s.line.state.isUp = true →
    (¬Matches data s → t = { s with receiver := some (begun (some false)) }) ∧
    (Matches data s →
      (s.store.freeQueue = [] → t = { s with receiver := some (begun (some true)) }) ∧
      ∀ b rest, s.store.freeQueue = b :: rest → t = { s with
        store := { s.store.setState b .filling with freeQueue := rest },
        receiver := some { begun (some true) with buffer := some b, assembly := [data] } }))

/-- What a body character adds to the frame in progress `f`, `s` before it and `t` after it: to the header record, the count, the
check register and the check bytes; with a buffer, until a framing error and up to position 4 + L (at most 244; assumption log 7),
its byte is placed in the word assembly, and eight bytes, or those up to the last position filled out with zeros, are written to the
buffer's word (R59). -/
def FrameExtended (data : Byte) (stop : Bool) (f : Frame) (s t : State) : Prop :=
  ∃ g : Frame, t = { s with receiver := some g, store := t.store } ∧
    g.header = (if f.count ≤ 4 then f.header ++ [data] else f.header) ∧ g.count = min 255 (f.count + 1) ∧
    g.matched = f.matched ∧ g.buffer = f.buffer ∧
    (∀ l, g.header[4]? = some l →
      g.crc = (if f.count ≤ 4 + l.toNat then crcByte f.crc data else f.crc) ∧
      g.check = (if f.count = 5 + l.toNat ∨ f.count = 6 + l.toNat then f.check ++ [data] else f.check)) ∧
    (g.header[4]? = none → g.crc = crcByte f.crc data ∧ g.check = f.check) ∧
    g.firstError = (if f.firstError = none ∧ stop = false then some .framing else f.firstError) ∧
    let last (l : Byte) : Nat := min (4 + l.toNat) 244
    let placed := f.firstError = none ∧ ∀ l, g.header[4]? = some l → f.count ≤ last l
    let word := f.assembly ++ [data]
    let full := word.length = 8 ∨ ∃ l, g.header[4]? = some l ∧ f.count = last l
    (f.buffer = none ∨ ¬placed → g.assembly = f.assembly ∧ t.store = s.store) ∧
    ∀ b, f.buffer = some b → placed →
      (¬full → g.assembly = word ∧ t.store = s.store) ∧
      (full → g.assembly = [] ∧
        t.store = { s.store with mem := t.store.mem, upsets := t.store.upsets } ∧
        let w := wordOf b (f.count / 8)
        (Memory.wf s.store.mem = true → ∀ a, Memory.read t.store.mem a =
          if 8 * w.val ≤ a ∧ a < 8 * w.val + 8 then word.getD (a - 8 * w.val) 0 else Memory.read s.store.mem a) ∧
        t.store.condition w = .clean ∧ ∀ v, v ≠ w → t.store.condition v = s.store.condition v)

/-- What the receiver does with a character that it takes, `s` before it and `t` after it: an address character begins a frame, a
frame in progress being cut first, its buffer given back and a format error counted in every copy; a body character adds to the frame
in progress, or is dropped (R44, R58 to R61). -/
def CharacterTaken (address : Bool) (data : Byte) (stop : Bool) (s t : State) : Prop :=
  if address then
    (s.receiver = none → FrameBegun data stop s t) ∧
    (s.receiver ≠ none → ∃ u, FrameBegun data stop { s with receiver := none, store := abandonedStore s } u ∧
      t = countAll .formatErrors u)
  else (s.receiver = none → t = s) ∧ ∀ f, s.receiver = some f → FrameExtended data stop f s t

/-- Bit `k` of a word's eight bytes: bit `k % 8` of byte `k / 8`. -/
def wordBit (bytes : List Byte) (k : Nat) : Bool := (bytes.getD (k / 8) 0).getLsbD (k % 8)

/-- What fan-out of an entry to the masters of a target set has done, `s` before it and `t` after it: a target whose queue has room
takes the entry, counts FRAMES IN and gets a DELIVERY request, every other target counts MISSED and gets a MISSED request, and the
buffer is DELIVERED to those that took it or leaves use (R101, R102). -/
def FannedOut (target : Master → Bool) (e : DeliveryEntry) (s t : State) : Prop :=
  let takes (m : Master) : Bool := target m && decide ((s.delivery.inbound.get m).length < 16)
  (∀ m ∈ Master.all,
    t.delivery.inbound.get m = (if takes m then s.delivery.inbound.get m ++ [e] else s.delivery.inbound.get m) ∧
    t.counters.get m = { s.counters.get m with
      framesIn := if takes m then countUp (s.counters.get m).framesIn else (s.counters.get m).framesIn,
      missed := if target m && !takes m then countUp (s.counters.get m).missed else (s.counters.get m).missed } ∧
    t.notices.get m = { s.notices.get m with
      request := { (s.notices.get m).request with
        delivery := (s.notices.get m).request.delivery || takes m,
        missed := (s.notices.get m).request.missed || (target m && !takes m) } }) ∧
  t = { s with
    delivery := { s.delivery with inbound := t.delivery.inbound }, counters := t.counters, notices := t.notices,
    store := if MasterSet.isEmpty (PerMaster.tabulate takes) then s.store.leaveUse e.buffer
      else s.store.setState e.buffer (.delivered (PerMaster.tabulate takes) MasterSet.empty) }

/-- The state once a frame has been lost to the masters of a target set for want of a buffer: MISSED and NO BUFFER counted and a
MISSED request raised at each of them (R93, R95, R100, R103). -/
def lostWithoutBuffer (target : Master → Bool) (s : State) : State :=
  { s with
    counters := PerMaster.tabulate fun m =>
      if target m then { s.counters.get m with
        missed := countUp (s.counters.get m).missed, noBuffer := countUp (s.counters.get m).noBuffer }
      else s.counters.get m,
    notices := PerMaster.tabulate fun m =>
      if target m then { s.notices.get m with request := { (s.notices.get m).request with missed := true } }
      else s.notices.get m }

/-- The delivery of a received frame to a target set, with its buffer or without one (R101, R103). -/
def Delivered (target : Master → Bool) (h : Header) (late : Bool) (s t : State) : Option BufferId → Prop
  | some b => FannedOut target ⟨b, h, s.timeBase, decide (0xE0 ≤ h.destination.toNat), late, false⟩ s t
  | none => t = lostWithoutBuffer target s

/-- What the loop-back copy of a completed attempt has done, `s` before it and `t` after it: with no FREE buffer every target but
the sender counts MISSED and gets a MISSED request; otherwise the image stands in the head of the free queue, its last word filled
out with zeros, and a LOCAL entry for it is fanned out to the targets without the sender (R107, R108, R109). -/
def LoopedBack (sender : Master) (copy : List Byte) (s t : State) : Prop :=
  let h := headerOf copy
  let target (m : Master) : Bool := (targetSet s h.destination).get m && decide (m ≠ sender)
  let words := (copy.length + 7) / 8
  (s.store.freeQueue = [] → t = { s with
    counters := PerMaster.tabulate fun m =>
      if target m then { s.counters.get m with missed := countUp (s.counters.get m).missed } else s.counters.get m,
    notices := PerMaster.tabulate fun m =>
      if target m then { s.notices.get m with request := { (s.notices.get m).request with missed := true } }
      else s.notices.get m }) ∧
  ∀ b rest, s.store.freeQueue = b :: rest → ∃ u : State,
    u = { s with store := { s.store with freeQueue := rest, mem := u.store.mem, upsets := u.store.upsets } } ∧
    (Memory.wf s.store.mem = true → ∀ a, Memory.read u.store.mem a =
      if 256 * b.val ≤ a ∧ a < 256 * b.val + 8 * words then copy.getD (a - 256 * b.val) 0 else Memory.read s.store.mem a) ∧
    (∀ w : WordNo, u.store.condition w =
      if 32 * b.val ≤ w.val ∧ w.val < 32 * b.val + words then .clean else s.store.condition w) ∧
    FannedOut target ⟨b, h, s.timeBase, decide (0xE0 ≤ h.destination.toNat), false, true⟩ u t

/-- Whether a buffer leaves use in a port reset of `m`; `lineGoes` says whether the reset takes the line out of use, and with it the
reception in progress (R28, R63). -/
def BufferState.goesAtReset (m : Master) (lineGoes : Bool) : BufferState → Bool
  | .owned o => o = m
  | .inJob o _ => o = m
  | .delivered pending holders => (MasterSet.erase pending m).isEmpty && (MasterSet.erase holders m).isEmpty
  | .filling => lineGoes
  | _ => false

/-- A buffer record after a port reset of `m`: FREE or QUARANTINED if it leaves use, else without `m` in its sets (R9, R28). -/
def BufferRecord.afterReset (m : Master) (lineGoes : Bool) (r : BufferRecord) : BufferRecord :=
  if r.state.goesAtReset m lineGoes then (if r.damaged then ⟨.quarantined, true⟩ else ⟨.free, false⟩)
  else
    match r.state with
    | .delivered pending holders => ⟨.delivered (MasterSet.erase pending m) (MasterSet.erase holders m), r.damaged⟩
    | _ => r

/-- The free queue after a port reset of `m`: the undamaged buffers that leave use stand at its tail, in ascending order (R9,
R28). -/
def queueAfterReset (m : Master) (lineGoes : Bool) (st : Store) : List BufferId :=
  st.freeQueue ++ (List.finRange 96).filter fun b =>
    (st.buffer b).state.goesAtReset m lineGoes && !(st.buffer b).damaged

/-- The address table after a port reset of `m`: every entry without `m`, and those left empty removed (R42). -/
def tableAfterReset (m : Master) (table : List TableEntry) : List TableEntry :=
  (table.map fun e => (⟨e.address, MasterSet.erase e.subscribers m⟩ : TableEntry)).filter fun e => !e.subscribers.isEmpty

/-- The transmitter after a port reset of `m` in a line state that stays: with a job of `m` RUNNING its attempt is cut, and an
automatic BUSY runs on (R56). -/
def transmitterAfterReset (m : Master) (s : State) : Transmitter :=
  if runsFor m s.jobs.running then
    { s.transmitter with
      waiting := none,
      wire := match s.transmitter.wire with
        | .none => .none
        | .sending f rest =>
          match f.sender with
          | .job _ => .sending { f with cut := true } (rest.take 1)
          | .busy _ => .sending f rest
        | .turnaround f left =>
          match f.sender with
          | .job _ => .turnaround { f with cut := true } left
          | .busy _ => .turnaround f left }
  else s.transmitter

/-- While RESET# is low the start-up clear has not ended and every port is DESELECTED (R162, R167). -/
def ResetLaw (s : State) : Prop :=
  s.resetLow = true → s.clearing = true ∧ ∀ m ∈ Master.all, (s.ports.get m).transaction = .deselected

end Sys2Proof.Machine
end

