-- ==== Sys2Proof/Certificates/Slice0/Obligations.lean ====
section
/-!
DEFINITION. The statements about the TJ-448 that the provers are asked for. `Ready m code args s` says that the port awaits
exactly what is missing of a command's bytes, no start-up clear runs and no attempt is due; `answered m status results s` is `s` with
that answer fixed on port `m`. `Settled s` says that no first attempt of a SEND that a grant has made due is still to begin: such an
attempt begins before every step that lets time pass and before every command (GrantRunsTheFirstEligibleHead; assumption log 17), so
the statements about these steps are made for settled states. A conclusion `exec i s = .next t` with `t` written out is also the step's frame: what `t` does not name is as
`s` has it. The line time that a timed step passes (`lineTime`) is the model's choice (assumption log 4), and so are the conditions
under which a step of the table is the event that its row names (`Ready` among them, assumption log 5).
-/

open Sys2Proof Sys2Proof.Machine

/-! ### The step, the queue, power-on -/

/-- With a step at the front of the queue, one step of the part is that step run on the state with the queue's rest. On an
empty queue one bit time passes (the model's choice, assumption log 4), before which an attempt that is due begins (assumption log 17). What `n` bit times do: the silence timer counts up to its
timeout and the qualification window down, the two idle measurements rise to at most 341 unless the line is DOWN, that of the end gap
once RXD is 1 again, and a turnaround delay, the timers of the running job and the hold entries count down. -/
def Obligations.StepTakesTheFront : Prop :=
  (∀ (c : Instr) (rest : List Instr) (s : State),
      step { s with pending := c :: rest } = exec c { s with pending := rest }) ∧
  (∀ s : State, s.pending = [] → step s = .next (lineTime 1 (takeAttempt s))) ∧
  ∀ (n : Nat) (s : State), lineTime n s = { s with
    line := { s.line with
      state := match s.line.state with
        | .qualify candidate good window => .qualify candidate good (window - n)
        | .up silence bad => .up (min (2 ^ s.line.settings.silenceExponent * 11) (silence + n)) bad
        | l => l
      idle := if s.line.state = .down then s.line.idle else min 341 (s.line.idle + (n - s.line.low))
      access := if s.line.state = .down then s.line.access else min 341 (s.line.access + n)
      low := s.line.low - n }
    transmitter := { s.transmitter with wire := match s.transmitter.wire with
      | .turnaround f left => .turnaround f (left - n)
      | w => w }
    jobs := { s.jobs with running := s.jobs.running.map fun r => ⟨r.job, r.tenure - n, match r.doing with
      | .due b h => .due b h
      | .send => .send
      | .await key left => .await key (left - n)
      | .wait left => .wait (left - n)⟩ }
    holds := s.holds.map fun e => ⟨e.station, e.remaining - n⟩ }

/-- POWER_ON leaves every field at its power-on value with the start-up clear running, every port DESELECTED and every ATTN#
released, and RESET# still low or not as its operand says. The CS# levels, the free-value count and the queue are kept (assumption
log 1). START_UP_CLEAR_END with RESET# high leaves the values of R27, R67, R113, R150, R177 and R180 and the transactions in
progress; the words upset after their clearing write stay upset. No clear ends while RESET# is low. -/
def Obligations.PowerOnAndTheClear : Prop :=
  (∀ (held : Bool) (s : State), ∃ t, exec (.powerOn held) s = .next t ∧
      t = { State.reset with
        resetLow := held,
        ports := PerMaster.tabulate fun m => ⟨(s.ports.get m).csLow, .deselected, ⟨24, 12, true⟩⟩,
        fresh := s.fresh, pending := s.pending } ∧
      t.clearing = true ∧ ∀ m ∈ Master.all, attnLow m t = false) ∧
  (∀ s : State, s.resetLow = true → exec .startUpClearEnd s = .next s) ∧
  (∀ s : State, s.clearing = true → s.resetLow = false → ∃ t, exec .startUpClearEnd s = .next t ∧
      t.clearing = false ∧ t.resetLow = false ∧
      t.store.mem = [] ∧ t.store.upsets = s.store.upsets ∧ (∀ b, t.store.buffer b = ⟨.free, false⟩) ∧
      t.store.freeQueue = List.finRange 96 ∧ t.store.damagedWords = [] ∧ t.store.patrolIndex = 0 ∧
      (∀ m ∈ Master.all, t.store.usage m = 0 ∧ (t.ports.get m).settings = ⟨24, 12, true⟩ ∧
        (t.ports.get m).transaction = (s.ports.get m).transaction ∧ (t.ports.get m).csLow = (s.ports.get m).csLow ∧
        t.line.flags.get m = ⟨false, false, false, false⟩ ∧ t.delivery.inbound.get m = [] ∧ t.delivery.late.get m = none ∧
        t.jobs.outbound.get m = [] ∧ t.jobs.completions.get m = [] ∧ t.jobs.tagCounter.get m = 0 ∧
        (t.notices.get m).enable = ⟨true, true, true, true, true⟩ ∧
        (t.notices.get m).request = ⟨false, false, false, false, false⟩ ∧ (t.notices.get m).active = [] ∧
        t.counters.get m = ⟨0, 0, 0, 0, 0, 0, 0, 0, 0⟩) ∧
      t.table = [] ∧ t.line.state = .down ∧ t.line.want = MasterSet.empty ∧ t.line.learned = 11 ∧
      t.line.settings = ⟨.fixed, 11, 0xFFFF, 6, 2, 3, 12, 14, 10, false, .off, 8, true⟩ ∧
      t.receiver = none ∧ t.transmitter = ⟨.none, none, none⟩ ∧ t.jobs.running = none ∧ t.jobs.pointer = .a ∧
      t.holds = [] ∧ t.timeBase = 0 ∧ t.fresh = s.fresh ∧ t.pending = s.pending)

/-- Every command that its port awaits is answered NOT READY during the start-up clear, with no other effect. An answer is the
turnaround byte 0x00, the status byte and the results; the fifteen status codes are 0x00 to 0x0E. -/
def Obligations.NotReadyDuringTheClear : Prop :=
  (∀ (i : Instr) (m : Master) (code : Byte) (args : List Byte) (s : State), commandBytes i = some (m, code, args) →
    s.clearing = true → awaits (s.ports.get m) code args = true → exec i s = .next (answered m .notReady [] s)) ∧
  (∀ (m : Master) (status : Status) (results : List Byte) (s : State), answered m status results s = { s with
    ports := s.ports.set m { s.ports.get m with transaction := .answer (0x00 :: status.code :: results) } }) ∧
  ([.ok, .empty, .full, .badArg, .badBuffer, .notYours, .claimed, .notFound, .lineInUse, .noBuffer, .notActive, .damaged,
    .badFrame, .notReady, .unknownCommand] : List Status).map Status.code = (List.range 15).map (BitVec.ofNat 8)

/-! ### The ports -/

/-- CS# falls on a deselected port, which enters CODE, and with RESET# low stays DESELECTED whatever CS# does; CS# rises in any
state, and the port is DESELECTED. SDO is high-impedance on a DESELECTED port. The answer's bytes stand on SDO in turn; after the
last of them the port is SPENT and SDO reads 0xFF. -/
def Obligations.TransactionBeginsAndEnds : Prop :=
  (∀ (m : Master) (s : State),
      ((s.ports.get m).csLow = false →
        exec (.csFalls m) s = .next { s with
          ports := s.ports.set m ⟨true, if s.resetLow then .deselected else .code, (s.ports.get m).settings⟩ }) ∧
      exec (.csRises m) s = .next { s with ports := s.ports.set m ⟨false, .deselected, (s.ports.get m).settings⟩ } ∧
      ((s.ports.get m).transaction = .deselected → sdoOutput m s = none) ∧
      ((s.ports.get m).transaction = .code → sdoOutput m s = some 0x00) ∧
      (∀ code args, (s.ports.get m).transaction = .arguments code args → sdoOutput m s = some 0x00)) ∧
  (∀ (m : Master) (x : Byte) (rest : List Byte) (s : State), (s.ports.get m).transaction = .answer (x :: rest) →
      sdoOutput m s = some x ∧
      ∃ t, exec (.answerByteClockedOut m) s = .next t ∧
        t = { s with
          ports := s.ports.set m { s.ports.get m with transaction := if rest = [] then .spent else .answer rest } } ∧
        (rest = [] → sdoOutput m t = some 0xFF))

/-- A byte that takes no command: a known code with arguments moves the port to ARGUMENTS, an argument that is not the last
is counted, and a byte in any other state of the port is ignored. A code that names no command is answered with the turnaround byte,
UNKNOWN COMMAND and no result, in this order (the model's choice between the two sentences of R166, assumption log 18), and changes
nothing else. -/
def Obligations.BytesBeforeTheLast : Prop :=
  (∀ (m : Master) (b : Byte) (s : State),
      let counted (code : Byte) (args : List Byte) : State := { s with
        ports := s.ports.set m { s.ports.get m with transaction := .arguments code args } }
      ((s.ports.get m).transaction = .code → ∀ n, expectedArguments b [] = some n → 0 < n →
        exec (.byteArrives m b) s = .next (counted b [])) ∧
      (∀ code args n, (s.ports.get m).transaction = .arguments code args → expectedArguments code (args ++ [b]) = some n →
        args.length + 1 < n → exec (.byteArrives m b) s = .next (counted code (args ++ [b]))) ∧
      ((s.ports.get m).transaction.received = none → exec (.byteArrives m b) s = .next s)) ∧
  (∀ (m : Master) (code : Byte) (s : State), (s.ports.get m).transaction = .code → isCommandCode code = false →
      exec (.unknownCommand m code) s = .next (answered m .unknownCommand [] s) ∧
      exec (.byteArrives m code) s = .next (answered m .unknownCommand [] s))

/-- The byte that completes a well-formed command, arriving as a byte, does what the command's own row does: the last argument byte
of a command with arguments, and the code byte of a command without. -/
def Obligations.LastByteTakesTheCommand : Prop :=
  (∀ (i : Instr) (m : Master) (code b : Byte) (args : List Byte) (s : State), WellFormed i = true →
    commandBytes i = some (m, code, args ++ [b]) → (s.ports.get m).transaction = .arguments code args →
    exec (.byteArrives m b) s = exec i s) ∧
  ∀ (i : Instr) (m : Master) (code : Byte) (s : State), WellFormed i = true → commandBytes i = some (m, code, []) →
    (s.ports.get m).transaction = .code → exec (.byteArrives m code) s = exec i s

/-- IDENT returns the vendor code, the part code, the revision and the port number, and changes nothing else. The commands
that read and change nothing: PORT GET, LINE GET, TIME, JOB STATUS and STORE STATUS. -/
def Obligations.ReadingCommands : Prop :=
  (∀ (m : Master) (s : State), Ready m 0x01 [] s →
      exec (.ident m) s = .next (answered m .ok [0x4C, 0x41, 0x04, 0x48, 0x01, BitVec.ofNat 8 m.number] s)) ∧
  (∀ (m : Master) (s : State),
      (Ready m 0x03 [] s → exec (.portGet m) s = .next (answered m .ok
        [BitVec.ofNat 8 (s.ports.get m).settings.quota, BitVec.ofNat 8 (s.ports.get m).settings.busyThreshold,
          if (s.ports.get m).settings.acceptBroadcast then 1 else 0] s)) ∧
      (Ready m 0x13 [] s → let r := s.line.settings
        exec (.lineGet m) s = .next (answered m .ok
          [if r.rateMode = .fixed then 0 else 1, BitVec.ofNat 8 r.fixedCode.val, BitVec.ofNat 8 (r.permitted.toNat / 256),
            BitVec.ofNat 8 r.permitted.toNat, BitVec.ofNat 8 r.accessGap, BitVec.ofNat 8 r.turnaround,
            BitVec.ofNat 8 r.retryLimit, BitVec.ofNat 8 r.tenureExponent, BitVec.ofNat 8 r.silenceExponent,
            BitVec.ofNat 8 r.holdExponent, if r.listenOnly then 1 else 0,
            if r.sync = .off then 0 else if r.sync = .rising then 1 else 2, BitVec.ofNat 8 r.receiveReserve,
            if r.patrol then 1 else 0] s)) ∧
      (Ready m 0x71 [] s → exec (.time m) s = .next (answered m .ok
        [BitVec.ofNat 8 (s.timeBase.toNat / 2 ^ 24), BitVec.ofNat 8 (s.timeBase.toNat / 2 ^ 16),
          BitVec.ofNat 8 (s.timeBase.toNat / 2 ^ 8), BitVec.ofNat 8 s.timeBase.toNat] s)) ∧
      (Ready m 0x43 [] s → exec (.jobStatus m) s = .next (answered m .ok
        ([BitVec.ofNat 8 (s.jobs.outbound.get m).length, BitVec.ofNat 8 (s.jobs.completions.get m).length] ++
          (match s.jobs.running with
            | some r => if r.job.master = m then [1, r.job.tag, BitVec.ofNat 8 r.job.index] else [0, 0, 0]
            | none => [0, 0, 0]) ++
          (match s.jobs.running with
            | some ⟨_, _, .await _ left⟩ => [BitVec.ofNat 8 (left / 11 / 256), BitVec.ofNat 8 (left / 11)]
            | _ => [0xFF, 0xFF])) s)) ∧
      (Ready m 0x36 [] s → exec (.storeStatus m) s = .next (answered m .ok
        ([BitVec.ofNat 8 s.store.freeQueue.length,
          BitVec.ofNat 8 ((List.finRange 96).filter fun b => (s.store.buffer b).state = .quarantined).length,
          BitVec.ofNat 8 ((List.finRange 96).filter fun b => match (s.store.buffer b).state with
            | .owned o => decide (o = m)
            | .inJob o _ => decide (o = m)
            | _ => false).length,
          BitVec.ofNat 8 (s.ports.get m).settings.quota, BitVec.ofNat 8 s.store.damagedWords.length] ++
          s.store.damagedWords.flatMap fun w => [BitVec.ofNat 8 (w.val / 256), BitVec.ofNat 8 w.val]) s)))

/-- PORT SET replaces the port settings record if every field lies in its range, and is refused with BAD ARG otherwise. -/
def Obligations.PortSetWritesTheRecord : Prop :=
  ∀ (m : Master) (q t b : Byte) (s : State), Ready m 0x02 [q, t, b] s →
    exec (.portSet m q t b) s = .next
      (if (1 ≤ q.toNat ∧ q.toNat ≤ 96) ∧ (1 ≤ t.toNat ∧ t.toNat ≤ 16) ∧ b.toNat ≤ 1 then
        answered m .ok [] { s with
          ports := s.ports.set m { s.ports.get m with settings := ⟨q.toNat, t.toNat, b.toNat = 1⟩ } }
      else answered m .badArg [] s)

/-! ### The line controller -/

/-- LINE STATE returns the record of R85 and then sets the requester's flags: UP-KEPT to whether the line is UP, the others to 0.
Nothing else changes. The applied code is the candidate in QUALIFY, in FIXED mode the fixed code while the line is DOWN or UP, and
otherwise the learned code. -/
def Obligations.LineStateReadsAndClears : Prop :=
  ∀ (m : Master) (s : State), Ready m 0x14 [] s →
    let line : Byte := match s.line.state with
      | .down => 0 | .seek _ => 1 | .qualify _ _ _ => 2 | .up _ _ => 3
    let fixedOr : RateCode := if s.line.settings.rateMode = .fixed then s.line.settings.fixedCode else s.line.learned
    let applied : RateCode := match s.line.state with
      | .down => fixedOr | .seek _ => s.line.learned | .qualify candidate _ _ => candidate | .up _ _ => fixedOr
    let want := s.line.want
    let f := s.line.flags.get m
    let bits (b0 b1 b2 b3 : Bool) : Byte :=
      (if b0 then 1 else 0) + (if b1 then 2 else 0) + (if b2 then 4 else 0) + (if b3 then 8 else 0)
    exec (.lineState m) s = .next (answered m .ok
      ([line, BitVec.ofNat 8 applied.val, bits want.a want.b want.c want.d, BitVec.ofNat 8 s.holds.length] ++
        (match s.jobs.running with
          | some r => [BitVec.ofNat 8 r.job.master.number, r.job.tag]
          | none => [0xFF, 0]) ++
        (match s.jobs.running with
          | some ⟨_, _, .await _ left⟩ => [BitVec.ofNat 8 (left / 11 / 256), BitVec.ofNat 8 (left / 11)]
          | _ => [0xFF, 0xFF]) ++ [bits f.upKept f.rateFault f.silent f.overflow])
      { s with line := { s.line with flags := s.line.flags.set m ⟨s.line.state.isUp, false, false, false⟩ } })

/-- WANT LINE adds the requester to the want set. With the set empty and the line DOWN the line makes its entry, to UP at the fixed
code or to SEEK with an empty sample run; otherwise nothing else changes. -/
def Obligations.WantLineMakesTheEntry : Prop :=
  ∀ (m : Master) (s : State), Ready m 0x10 [] s →
    let joined := { s with line := { s.line with want := MasterSet.insert s.line.want m } }
    (s.line.want.isEmpty = true → s.line.state = .down → s.line.settings.rateMode = .fixed →
      exec (.wantLine m) s = .next (answered m .ok [3] (raiseAll .line
        { joined with line := { joined.line with
            state := .up 0 0, learned := s.line.settings.fixedCode, idle := 0, access := 0, low := 0 } }))) ∧
    (s.line.want.isEmpty = true → s.line.state = .down → s.line.settings.rateMode = .learn →
      exec (.wantLine m) s = .next (answered m .ok [1]
        { joined with line := { joined.line with state := .seek [], idle := 0, access := 0, low := 0 } })) ∧
    (s.line.want.isEmpty = false ∨ s.line.state.isDown = false →
      exec (.wantLine m) s = .next (answered m .ok [s.line.state.byte] joined))

/-- UNWANT LINE removes the requester from the want set. If members remain, or the line is DOWN already, nothing else changes. If
the set becomes empty the line goes DOWN: from UP with everything that R82 asks of every block, from SEEK and QUALIFY with a
reception in progress abandoned and nothing else changed. -/
def Obligations.UnwantLineTakesTheLineDown : Prop :=
  ∀ (m : Master) (s : State), Ready m 0x11 [] s →
    let rest := MasterSet.erase s.line.want m
    let down := { s.line with state := .down, want := rest, idle := 0, access := 0, low := 0 }
    (rest.isEmpty = false ∨ s.line.state = .down →
      exec (.unwantLine m) s = .next (answered m .ok [s.line.state.byte] { s with line := { s.line with want := rest } })) ∧
    (rest.isEmpty = true → s.line.state.isUp = true → ∃ t, exec (.unwantLine m) s = .next (answered m .ok [0] t) ∧
      LeftUp s t ∧ t.line = { down with flags := t.line.flags }) ∧
    (rest.isEmpty = true → s.line.state ≠ .down → s.line.state.isUp = false →
      exec (.unwantLine m) s = .next (answered m .ok [0]
        { s with line := down, receiver := none, store := abandonedStore s }))

/-- The bytes of a shared settings record are accepted exactly when every field lies in its range and LEARN mode names a permitted
code; the record given then has the values of the bytes, field by field. They stand in the order of R170. The bytes that LINE GET
returns for a record in range give that record. -/
def Obligations.SettingsRanges : Prop :=
  (∀ r : SettingsBytes, (settingsOf r).isSome = true ↔
    (r.rateMode.toNat ≤ 1 ∧ r.fixedCode.toNat ≤ 15 ∧ (4 ≤ r.accessGap.toNat ∧ r.accessGap.toNat ≤ 15) ∧
      r.turnaround.toNat ≤ 15 ∧ r.retryLimit.toNat ≤ 7 ∧ (6 ≤ r.tenureExponent.toNat ∧ r.tenureExponent.toNat ≤ 16) ∧
      (8 ≤ r.silenceExponent.toNat ∧ r.silenceExponent.toNat ≤ 20) ∧
      (6 ≤ r.holdExponent.toNat ∧ r.holdExponent.toNat ≤ 16) ∧ r.listenOnly.toNat ≤ 1 ∧ r.sync.toNat ≤ 2 ∧
      r.receiveReserve.toNat ≤ 32 ∧ r.patrol.toNat ≤ 1) ∧ ¬(r.rateMode.toNat = 1 ∧ r.permitted = 0)) ∧
  (∀ (r : SettingsBytes) (t : Settings), settingsOf r = some t →
    t.rateMode = (if r.rateMode = 0 then .fixed else .learn) ∧ t.fixedCode.val = r.fixedCode.toNat ∧
      t.permitted = r.permitted ∧ t.accessGap = r.accessGap.toNat ∧ t.turnaround = r.turnaround.toNat ∧
      t.retryLimit = r.retryLimit.toNat ∧ t.tenureExponent = r.tenureExponent.toNat ∧
      t.silenceExponent = r.silenceExponent.toNat ∧ t.holdExponent = r.holdExponent.toNat ∧
      t.listenOnly = decide (r.listenOnly = 1) ∧
      t.sync = (if r.sync = 0 then .off else if r.sync = 1 then .rising else .falling) ∧
      t.receiveReserve = r.receiveReserve.toNat ∧ t.patrol = decide (r.patrol = 1)) ∧
  (∀ r : SettingsBytes, bytesOfSettings r =
    [r.rateMode, r.fixedCode, BitVec.ofNat 8 (r.permitted.toNat / 256), BitVec.ofNat 8 r.permitted.toNat, r.accessGap,
      r.turnaround, r.retryLimit, r.tenureExponent, r.silenceExponent, r.holdExponent, r.listenOnly, r.sync,
      r.receiveReserve, r.patrol]) ∧
  ∀ t : Settings, t.inRange → settingsOf t.toBytes = some t

/-- LINE SET: BAD ARG for a record that is not accepted, LINE IN USE for a want set that is neither empty nor the requester alone,
otherwise the record is replaced and a LINE request raised at every master. With the line DOWN nothing else changes; from UP the
line leaves UP and makes a new entry under the new record; from SEEK and QUALIFY a reception in progress is abandoned, nothing else
is left, and the line makes the same entry. -/
def Obligations.LineSetRestartsTheLine : Prop :=
  ∀ (m : Master) (bytes : SettingsBytes) (s : State), Ready m 0x12 (bytesOfSettings bytes) s →
    (settingsOf bytes = none → exec (.lineSet m bytes) s = .next (answered m .badArg [] s)) ∧
    ∀ r, settingsOf bytes = some r →
      (s.line.want.isEmpty = false → s.line.want ≠ MasterSet.singleton m →
        exec (.lineSet m bytes) s = .next (answered m .lineInUse [] s)) ∧
      (s.line.want.isEmpty = true ∨ s.line.want = MasterSet.singleton m →
        let entered : Line := { s.line with
          settings := r, idle := 0, access := 0, low := 0
          state := if r.rateMode = .fixed then .up 0 0 else .seek []
          learned := if r.rateMode = .fixed then r.fixedCode else s.line.learned }
        (s.line.state = .down → exec (.lineSet m bytes) s =
          .next (answered m .ok [] (raiseAll .line { s with line := { s.line with settings := r } }))) ∧
        (s.line.state.isUp = true → ∃ t, exec (.lineSet m bytes) s = .next (answered m .ok [] t) ∧ LeftUp s t ∧
          t.line = { entered with flags := t.line.flags }) ∧
        (s.line.state ≠ .down → s.line.state.isUp = false → exec (.lineSet m bytes) s =
          .next (answered m .ok [] (raiseAll .line
            { s with line := entered, receiver := none, store := abandonedStore s }))))

/-- RELEARN: BAD ARG in FIXED mode or with the line DOWN; otherwise the line is in SEEK with an empty sample run, from UP with
everything that R82 asks of every block, from SEEK and QUALIFY with a reception in progress abandoned and nothing else changed. -/
def Obligations.RelearnSeeks : Prop :=
  ∀ (m : Master) (s : State), Ready m 0x15 [] s →
    (s.line.settings.rateMode = .fixed ∨ s.line.state = .down →
      exec (.relearn m) s = .next (answered m .badArg [] s)) ∧
    (s.line.settings.rateMode = .learn → s.line.state.isUp = true → ∃ t, exec (.relearn m) s = .next (answered m .ok [] t) ∧
      LeftUp s t ∧ t.line = { s.line with state := .seek [], flags := t.line.flags }) ∧
    (s.line.settings.rateMode = .learn → s.line.state ≠ .down → s.line.state.isUp = false →
      exec (.relearn m) s = .next (answered m .ok []
        { s with line := { s.line with state := .seek [] }, receiver := none, store := abandonedStore s }))

/-- A measurement matches at most one rate. The runs that give a sample begin with the character's first fall, end with a rise
within 11 of the bit times that they give, and no longer run of them does; their bit time is the greatest duration of which every
one of them is a whole multiple. A measurement matches a code whose rate its own, the reciprocal of the mean bit time, differs from
by at most 3%. A character in SEEK with DE low, address or body, is taken as the receiver takes it (`CharacterTaken`): an unusable
sample empties the sample run, a sample that does not agree with the run's mean within 2% begins it afresh, and the eighth sample
completes a measurement, which makes the lowest matched permitted code the candidate, or latches RATE FAULT when only codes that are
not permitted match, or begins again. The entry to QUALIFY abandons the frame in progress. (How the runs of a character are found
where the very end of the character depends on the bit time is assumption log 12.) -/
def Obligations.RateIsMeasured : Prop :=
  (∀ (run : List Rat) (c d : RateCode), measurementMatches run c = true → measurementMatches run d = true →
    rateOf c = rateOf d) ∧
  (∀ (run : List Rat) (c : RateCode), measurementMatches run c = true ↔
    let rate : Rat := if c.val < 8 then 125000 * (c.val + 1 : Nat) else 1000000 / (c.val - 7 : Nat)
    let measured : Rat := 16000000 / (run.sum / (run.length : Nat))
    97 * rate ≤ 100 * measured ∧ 100 * measured ≤ 103 * rate) ∧
  (∀ runs : List Rat, runs ≠ [] → (∀ x ∈ runs, 0 < x) → ∃ k, 2 * k + 1 ≤ runs.length ∧
    characterRuns runs = runs.take (2 * k + 1) ∧ (characterRuns runs).sum ≤ 11 * measureOf (characterRuns runs) ∧
    ∀ j, k < j → 2 * j + 1 ≤ runs.length → 11 * measureOf (runs.take (2 * j + 1)) < (runs.take (2 * j + 1)).sum) ∧
  (∀ runs : List Rat, runs ≠ [] → (∀ x ∈ runs, 0 < x) →
    0 < measureOf runs ∧ (∀ x ∈ runs, ∃ n : Nat, x = n * measureOf runs) ∧
    ∀ d : Rat, 0 < d → (∀ x ∈ runs, ∃ n : Nat, x = n * d) → d ≤ measureOf runs) ∧
  ∀ (data : Byte) (stop address : Bool) (low : Nat) (runs run : List Rat) (s : State), Settled s → s.line.state = .seek run →
    s.transmitter.wire = .none →
    let character : Instr := if address then .addressCharacter data stop runs low else .bodyCharacter data stop runs low
    let passed := lineTime (s.line.low + 11) s
    let heard := { passed with line := { passed.line with idle := 0, access := 0, low := if stop then 0 else low } }
    ∃ taken, CharacterTaken address data stop heard taken ∧
    let stands (l : LineState) : State := { taken with line := { taken.line with state := l } }
    ((characterRuns runs).length ≤ 1 → exec character s = .next (stands (.seek []))) ∧
    (2 ≤ (characterRuns runs).length → ∀ x, x = measureOf (characterRuns runs) →
      let joined := run ++ [x]
      let mean : Rat := joined.sum / (joined.length : Nat)
      let agrees := joined.all fun y => decide (49 * mean ≤ 50 * y ∧ 50 * y ≤ 51 * mean)
      let longer := if agrees then joined else [x]
      let permitted (c : RateCode) : Bool := s.line.settings.permitted.getLsbD c.val
      (longer.length ≠ 8 → exec character s = .next (stands (.seek longer))) ∧
      (longer.length = 8 →
        (∀ c, measurementMatches longer c = true → permitted c = true →
          (∀ d, measurementMatches longer d = true → permitted d = true → c ≤ d) →
          exec character s =
            .next { stands (.qualify c 0 5632) with receiver := none, store := abandonedStore taken }) ∧
        ((∀ c, measurementMatches longer c = false) →
          exec character s = .next (stands (.seek []))) ∧
        ((∃ c, measurementMatches longer c = true) → (∀ c, measurementMatches longer c = true → permitted c = false) →
          exec character s =
            .next (raiseAll .line (latchAll (fun l => { l with rateFault := true }) (stands (.seek [])))))))

/-- Frame reports at a frame end. In SEEK they move nothing. In QUALIFY the first good frame is counted, the second brings UP at the
candidate, and a bad frame brings SEEK. In UP a good frame ends the bad-frame run in LEARN mode, an unmatched one doing nothing more,
and in LEARN mode the eighth bad frame in a row leaves UP for SEEK. A bad frame is counted in every copy and gives its buffer back.
With no frame in progress none ends (assumption log 5). -/
def Obligations.FrameReportsMoveTheLine : Prop :=
  (∀ s : State, s.receiver = none → exec .frameEnd s = .next s) ∧
  ∀ (s : State) (f : Frame), FrameEndSettled s → s.receiver = some f →
    let wait := s.line.low + (22 - s.line.idle)
    let ended := { lineTime wait s with receiver := none }
    let stands (l : LineState) : State := { ended with line := { ended.line with state := l } }
    let counted (e : ReceiveError) (u : State) : State :=
      countAll (if e = .crc then .crcErrors else .formatErrors) { u with store := abandonedStore s }
    (∀ run, s.line.state = .seek run →
      (frameError f = none → exec .frameEnd s = .next ended) ∧
      (∀ e, frameError f = some e → exec .frameEnd s = .next (counted e ended))) ∧
    (∀ candidate count window, s.line.state = .qualify candidate count window →
      (frameError f = none → count = 0 → exec .frameEnd s = .next (stands (.qualify candidate 1 (window - wait)))) ∧
      (frameError f = none → count ≠ 0 → exec .frameEnd s = .next (raiseAll .line
        { ended with line := { ended.line with state := .up 0 0, learned := candidate } })) ∧
      (∀ e, frameError f = some e → exec .frameEnd s = .next (counted e (stands (.seek []))))) ∧
    (∀ silence bad, s.line.state = .up silence bad →
      let still := min (2 ^ s.line.settings.silenceExponent * 11) (silence + wait)
      (frameError f = none → f.matched ≠ some true → exec .frameEnd s =
        .next (stands (.up still (if s.line.settings.rateMode = .learn then 0 else bad)))) ∧
      (∀ e, frameError f = some e → s.line.settings.rateMode = .learn → bad < 7 →
        exec .frameEnd s = .next (counted e (stands (.up still (bad + 1))))) ∧
      (∀ e, frameError f = some e → s.line.settings.rateMode = .learn → 7 ≤ bad → ∃ t, exec .frameEnd s = .next t ∧
        LeftUp (counted e ended) t ∧ t.line = { ended.line with state := .seek [], flags := t.line.flags }))

/-- SILENCE_TIMEOUT in UP: SILENT is latched in every copy. In FIXED mode a LINE request is raised at every master and the timer
restarts; in LEARN mode the line leaves UP for SEEK. QUALIFICATION_WINDOW_EXPIRY in QUALIFY: the line enters SEEK and the frame in
progress is abandoned. -/
def Obligations.LineTimersExpire : Prop :=
  ∀ s : State, Settled s →
    (∀ silence bad, s.line.state = .up silence bad →
      let passed := lineTime (2 ^ s.line.settings.silenceExponent * 11 - silence) s
      let latched := latchAll (fun f => { f with silent := true }) passed
      (s.line.settings.rateMode = .fixed → exec .silenceTimeout s =
        .next (raiseAll .line { latched with line := { latched.line with state := .up 0 bad } })) ∧
      (s.line.settings.rateMode = .learn → ∃ t, exec .silenceTimeout s = .next t ∧ LeftUp latched t ∧
        t.line = { latched.line with state := .seek [], flags := t.line.flags })) ∧
    (∀ candidate count window, s.line.state = .qualify candidate count window →
      let passed := lineTime window s
      exec .qualificationWindowExpiry s = .next { passed with
        line := { passed.line with state := .seek [] }, receiver := none, store := abandonedStore s })

/-! ### The address table -/

/-- CLAIM, in every case: BAD ARG, already the requester's, CLAIMED, FULL, or a new entry after all others. DROP, in every
case: BAD ARG, NOT FOUND, NOT YOURS, or the entry removed. -/
def Obligations.ClaimAndDrop : Prop :=
  (∀ (m : Master) (a : Byte) (s : State), Ready m 0x20 [a] s →
      exec (.claim m a) s = .next
        (if ¬(1 ≤ a.toNat ∧ a.toNat ≤ 0xDF) then answered m .badArg [] s
        else match s.table.find? fun e => e.address = a with
          | some e => if e.subscribers.get m then answered m .ok [] s else answered m .claimed [] s
          | none =>
            if 16 ≤ s.table.length then answered m .full [] s
            else answered m .ok [] { s with table := s.table ++ [⟨a, MasterSet.singleton m⟩] })) ∧
  (∀ (m : Master) (a : Byte) (s : State), Ready m 0x21 [a] s →
      exec (.drop m a) s = .next
        (if ¬(1 ≤ a.toNat ∧ a.toNat ≤ 0xDF) then answered m .badArg [] s
        else match s.table.find? fun e => e.address = a with
          | none => answered m .notFound [] s
          | some e =>
            if e.subscribers.get m then answered m .ok [] { s with table := s.table.filter fun e => e.address ≠ a }
            else answered m .notYours [] s))

/-- JOIN, in every case: BAD ARG, already a subscriber, added to the entry, FULL, or a new entry after all others. LEAVE, in
every case: BAD ARG, NOT FOUND, the entry removed with its last subscriber, or kept with the others. -/
def Obligations.JoinAndLeave : Prop :=
  (∀ (m : Master) (g : Byte) (s : State), Ready m 0x22 [g] s →
      exec (.join m g) s = .next
        (if ¬(0xE0 ≤ g.toNat ∧ g.toNat ≤ 0xFE) then answered m .badArg [] s
        else match s.table.find? fun e => e.address = g with
          | some e =>
            if e.subscribers.get m then answered m .ok [] s
            else answered m .ok [] { s with table := s.table.map fun x =>
              if x.address = g then ⟨x.address, MasterSet.insert e.subscribers m⟩ else x }
          | none =>
            if 16 ≤ s.table.length then answered m .full [] s
            else answered m .ok [] { s with table := s.table ++ [⟨g, MasterSet.singleton m⟩] })) ∧
  (∀ (m : Master) (g : Byte) (s : State), Ready m 0x23 [g] s →
      exec (.leave m g) s = .next
        (if ¬(0xE0 ≤ g.toNat ∧ g.toNat ≤ 0xFE) then answered m .badArg [] s
        else match s.table.find? fun e => e.address = g with
          | none => answered m .notFound [] s
          | some e =>
            if ¬e.subscribers.get m then answered m .notFound [] s
            else if (MasterSet.erase e.subscribers m).isEmpty then
              answered m .ok [] { s with table := s.table.filter fun x => x.address ≠ g }
            else answered m .ok [] { s with table := s.table.map fun x =>
              if x.address = g then ⟨x.address, MasterSet.erase e.subscribers m⟩ else x }))

/-- TABLE READ, in every case: BAD ARG, NOT FOUND, or the entry count and the entry. -/
def Obligations.TableReadEntry : Prop :=
  ∀ (m : Master) (i : Byte) (s : State), Ready m 0x24 [i] s →
    exec (.tableRead m i) s = .next
      (if 15 < i.toNat then answered m .badArg [] s
      else match s.table[i.toNat]? with
        | none => answered m .notFound [] s
        | some e => answered m .ok [BitVec.ofNat 8 s.table.length, e.address,
            if 0xE0 ≤ e.address.toNat ∧ e.address.toNat ≤ 0xFE then 1 else 0,
            (if e.subscribers.a then 1 else 0) + (if e.subscribers.b then 2 else 0) + (if e.subscribers.c then 4 else 0) +
              (if e.subscribers.d then 8 else 0)] s)

/-! ### The frame store -/

/-- A read through correction of one word, by the word's condition. The bytes as written are those of the store's memory; as they now
stand they differ from them in exactly the bits that the word's upsets have flipped. A correctable finding leaves the word clean and a
double-upset word in a FREE buffer is written with zeros. In any other buffer it stays as it is, the buffer's damaged flag is set and
UNCORRECTABLE counted; no word's condition and no other buffer changes (what is listed, latched and requested besides is
UncorrectableFindingIsReported). Several words are read one after the other in the order given, each with its finding, and the words
of a span in ascending order. -/
def Obligations.ReadThroughCorrection : Prop :=
  (∀ s : State, readWords [] s = ([], s)) ∧
  (∀ (w : WordNo) (rest : List WordNo) (s : State), readWords (w :: rest) s =
    ((readWord w s).1 ++ (readWords rest (readWord w s).2).1, (readWords rest (readWord w s).2).2)) ∧
  (∀ (b : BufferId) (first last : Nat),
    wordsOf b first last = (List.range (last + 1 - first)).map fun i => wordOf b (first + i)) ∧
  ∀ (w : WordNo) (s : State),
    s.store.written w = (List.range 8).map (fun i => Memory.read s.store.mem (8 * w.val + i)) ∧
    (s.store.condition w = .clean → readWord w s = (s.store.written w, s)) ∧
    (s.store.condition w = .singleUpset → (readWord w s).1 = s.store.written w ∧
      (readWord w s).2 = countAll .corrected { s with
        store := { s.store with upsets := s.store.upsets.filter fun u => u.word ≠ w } } ∧
      (∀ v, (readWord w s).2.store.condition v = if v = w then .clean else s.store.condition v)) ∧
    (s.store.condition w = .doubleUpset → (readWord w s).1 = s.store.standing w ∧
      (∀ u, s.store.upsets.find? (fun u => u.word = w) = some u → ∀ k, k < 64 →
        wordBit (readWord w s).1 k = (wordBit (s.store.written w) k ^^ u.flips.getLsbD k)) ∧
      ((s.store.buffer (bufferOf w)).state ≠ .free → ∃ t, (readWord w s).2 = t ∧
        (∀ b, t.store.buffer b =
          if b = bufferOf w then ⟨(s.store.buffer b).state, true⟩ else s.store.buffer b) ∧
        (∀ v, t.store.condition v = s.store.condition v) ∧
        t = { s with
          store := { s.store with buffers := t.store.buffers, damagedWords := t.store.damagedWords },
          line := { s.line with flags := t.line.flags }, notices := t.notices,
          counters := s.counters.map fun k => { k with uncorrectable := countUp k.uncorrectable } }) ∧
      ((s.store.buffer (bufferOf w)).state = .free →
        (readWord w s).2 = countAll .uncorrectable { s with store := s.store.writeWord w (List.replicate 8 0) } ∧
        ∀ v, (readWord w s).2.store.condition v = if v = w then .clean else s.store.condition v))

/-- An uncorrectable finding on a buffer that is not FREE: the word is listed if it is not yet and there is room, and if there is
no room OVERFLOW is latched and a LINE request raised at every master; a STORE request is raised at the masters concerned. No other
line flag and no other notice changes. -/
def Obligations.UncorrectableFindingIsReported : Prop :=
  ∀ (w : WordNo) (s : State), s.store.condition w = .doubleUpset → (s.store.buffer (bufferOf w)).state ≠ .free →
    let t := (readWord w s).2
    let overflows := decide (w ∉ s.store.damagedWords) && decide (16 ≤ s.store.damagedWords.length)
    t.store.damagedWords = (if w ∈ s.store.damagedWords then s.store.damagedWords
      else if s.store.damagedWords.length < 16 then s.store.damagedWords ++ [w] else s.store.damagedWords) ∧
    ∀ m ∈ Master.all,
      t.line.flags.get m = { s.line.flags.get m with overflow := (s.line.flags.get m).overflow || overflows } ∧
      t.notices.get m = { s.notices.get m with request := { (s.notices.get m).request with
        line := (s.notices.get m).request.line || overflows
        store := (s.notices.get m).request.store || match (s.store.buffer (bufferOf w)).state with
          | .owned o => decide (o = m)
          | .inJob o _ => decide (o = m)
          | .delivered pending holders => pending.get m || holders.get m
          | _ => false } }

/-- A store upset of a word that the store has, with RESET# high: a clean word becomes single upset, a single-upset word double
upset, a double-upset word stays so; the data bit that it names, if it is one of the 64 and not a check bit, stands changed (log 10),
and no other bit does; no other word, no byte as written and nothing else changes. During the start-up clear a word that is not clean
is upset in the same way; a clean one is either upset so or left as it is, as a free value of the model's says (assumption log 3).
While RESET# is low an upset leaves no trace (the model's choice, assumption log 1). A word the store does not have faults. -/
def Obligations.UpsetMovesTheCondition : Prop :=
  (∀ (word : Nat) (bit : Fin 72) (s : State), ¬word < 3072 → exec (.storeUpset word bit) s = .fault .noSuchWord) ∧
  ∀ (w : WordNo) (bit : Fin 72) (s : State),
    let struck (t : State) : Prop :=
      t.store.condition w = (if s.store.condition w = .clean then .singleUpset else .doubleUpset) ∧
      (∀ k, k < 64 → wordBit (t.store.standing w) k = (wordBit (s.store.standing w) k ^^ decide (k = bit.val))) ∧
      ∀ v : WordNo, v ≠ w → t.store.condition v = s.store.condition v ∧ t.store.standing v = s.store.standing v
    (s.resetLow = true → exec (.storeUpset w.val bit) s = .next s) ∧
    (s.resetLow = false → s.clearing = false ∨ s.store.condition w ≠ .clean →
      ∃ t, exec (.storeUpset w.val bit) s = .next t ∧ struck t ∧
        t = { s with store := { s.store with upsets := t.store.upsets } }) ∧
    (s.resetLow = false → s.clearing = true → s.store.condition w = .clean →
      ∃ t, exec (.storeUpset w.val bit) s = .next t ∧ (struck t ∨ t.store = s.store) ∧
        t = { s with store := { s.store with upsets := t.store.upsets }, fresh := s.fresh + 1 })

/-- A patrol visit: the word at the index is read through correction unless it lies in the FILLING buffer, and the index advances
by one and wraps from 3071 to 0. No visit is made with the patrol off or during the start-up clear. -/
def Obligations.PatrolVisitsOneWord : Prop :=
  ∀ s : State,
    (s.clearing = false → s.line.settings.patrol = true → ∃ t, exec .patrolVisit s = .next t ∧
      t.store.patrolIndex.val = (s.store.patrolIndex.val + 1) % 3072 ∧
      ((s.store.buffer (bufferOf s.store.patrolIndex)).state = .filling →
        t = { s with store := { s.store with patrolIndex := t.store.patrolIndex } }) ∧
      ((s.store.buffer (bufferOf s.store.patrolIndex)).state ≠ .filling →
        t = { (readWord s.store.patrolIndex s).2 with
          store := { (readWord s.store.patrolIndex s).2.store with patrolIndex := t.store.patrolIndex } })) ∧
    (s.clearing = true ∨ s.line.settings.patrol = false → exec .patrolVisit s = .next s)

/-- ALLOC, in every case: FULL at the quota, NO BUFFER at the receive reserve, or the head of the free queue OWNED. -/
def Obligations.AllocTakesTheHead : Prop :=
  ∀ (m : Master) (s : State), Ready m 0x30 [] s →
    ((s.ports.get m).settings.quota ≤ s.store.usage m → exec (.alloc m) s = .next (answered m .full [] s)) ∧
    (s.store.usage m < (s.ports.get m).settings.quota →
      (s.store.freeQueue.length ≤ s.line.settings.receiveReserve →
        exec (.alloc m) s = .next (answered m .noBuffer [] s)) ∧
      (s.line.settings.receiveReserve < s.store.freeQueue.length → ∀ b rest, s.store.freeQueue = b :: rest →
        exec (.alloc m) s = .next (answered m .ok (halfBytes (BitVec.ofNat 16 b.val))
          { s with store := { s.store.setState b (.owned m) with freeQueue := rest } })))

/-- FREE, in every case of the buffer's state. ADOPT, in every case. -/
def Obligations.FreeAndAdopt : Prop :=
  (∀ (m : Master) (n : Half) (s : State), Ready m 0x31 (halfBytes n) s →
      (96 ≤ n.toNat → exec (.free m n) s = .next (answered m .badBuffer [] s)) ∧
      ∀ b : BufferId, b.val = n.toNat →
        exec (.free m n) s = .next
          (match (s.store.buffer b).state with
            | .owned o =>
              if o = m then answered m .ok [] { s with store := s.store.leaveUse b } else answered m .notYours [] s
            | .delivered pending holders =>
              if ¬holders.get m then answered m .notYours [] s
              else if pending.isEmpty && (MasterSet.erase holders m).isEmpty then
                answered m .ok [] { s with store := s.store.leaveUse b }
              else answered m .ok [] { s with store := s.store.setState b (.delivered pending (MasterSet.erase holders m)) }
            | _ => answered m .notYours [] s)) ∧
  (∀ (m : Master) (n : Half) (s : State), Ready m 0x32 (halfBytes n) s →
      (96 ≤ n.toNat → exec (.adopt m n) s = .next (answered m .badBuffer [] s)) ∧
      ∀ b : BufferId, b.val = n.toNat →
        exec (.adopt m n) s = .next
          (if (s.store.buffer b).state ≠ .delivered MasterSet.empty (MasterSet.singleton m) then answered m .notYours [] s
          else if (s.ports.get m).settings.quota ≤ s.store.usage m then answered m .full [] s
          else answered m .ok [] { s with store := s.store.setState b (.owned m) }))

/-- A buffer that leaves use goes to the free tail, or to QUARANTINED when its damaged flag is set; its data, and every other
buffer, stay as they are. A buffer that changes its state keeps its damaged flag, and no other record changes. -/
def Obligations.LeavingUse : Prop :=
  ∀ (st : Store) (b : BufferId),
    (∀ v : BufferState, (∀ c, (st.setState b v).buffer c = if c = b then ⟨v, (st.buffer b).damaged⟩ else st.buffer c) ∧
      st.setState b v = { st with buffers := (st.setState b v).buffers }) ∧
    ((st.buffer b).damaged = false → (st.leaveUse b).buffer b = ⟨.free, false⟩ ∧
      (st.leaveUse b).freeQueue = st.freeQueue ++ [b]) ∧
    ((st.buffer b).damaged = true → (st.leaveUse b).buffer b = ⟨.quarantined, true⟩ ∧
      (st.leaveUse b).freeQueue = st.freeQueue) ∧
    (∀ c, c ≠ b → (st.leaveUse b).buffer c = st.buffer c) ∧
    (st.leaveUse b).mem = st.mem ∧ (st.leaveUse b).upsets = st.upsets ∧
    (st.leaveUse b).damagedWords = st.damagedWords ∧ (st.leaveUse b).patrolIndex = st.patrolIndex

/-- WRITE: BAD BUFFER, BAD ARG, NOT YOURS and DAMAGED, the first that applies. A WRITE that passes these checks: each word of the
span is written whole or in part, and the part of a word that is double upset and not covered whole is abandoned. The bytes of the
other parts stand at their offsets and every other byte reads as before; the words written are clean, an abandoned word stays double
upset and damages the buffer, and no other word's condition, no other buffer record and no queue changes. Beside the bytes and
the conditions, the state is that after the reads through correction, in ascending order, of the words written in part, with all their
findings. With nothing abandoned only counters change beside. A WRITE of part of one word that is double upset is, beside its answer,
the read of that word through correction. -/
def Obligations.WriteStoresItsBytes : Prop :=
  (∀ (m : Master) (n offset count : Half) (data : List Byte) (s : State),
      Ready m 0x33 (halfBytes n ++ halfBytes offset ++ halfBytes count ++ data) s →
      let spans := 1 ≤ count.toNat ∧ count.toNat ≤ 64 ∧ offset.toNat + count.toNat ≤ 256
      (96 ≤ n.toNat → exec (.write m n offset count data) s = .next (answered m .badBuffer [] s)) ∧
      ∀ b : BufferId, b.val = n.toNat →
        (¬spans → exec (.write m n offset count data) s = .next (answered m .badArg [] s)) ∧
        (spans → (s.store.buffer b).state ≠ .owned m →
          exec (.write m n offset count data) s = .next (answered m .notYours [] s)) ∧
        (spans → s.store.buffer b = ⟨.owned m, true⟩ →
          exec (.write m n offset count data) s = .next (answered m .damaged [] s))) ∧
  (∀ (m : Master) (n offset count : Half) (data : List Byte) (s : State) (b : BufferId),
      Ready m 0x33 (halfBytes n ++ halfBytes offset ++ halfBytes count ++ data) s → Memory.wf s.store.mem = true →
      b.val = n.toNat → 1 ≤ count.toNat → count.toNat ≤ 64 → offset.toNat + count.toNat ≤ 256 →
      s.store.buffer b = ⟨.owned m, false⟩ →
      let first := offset.toNat / 8
      let last := (offset.toNat + count.toNat - 1) / 8
      let covered (k : Nat) : Bool := decide (offset.toNat ≤ 8 * k ∧ 8 * k + 8 ≤ offset.toNat + count.toNat)
      let abandons (k : Nat) : Bool := decide (first ≤ k ∧ k ≤ last) &&
        decide (s.store.condition (wordOf b k) = .doubleUpset) && !covered k
      let merged := ((List.range (last + 1 - first)).map fun i => first + i).filter fun k => !covered k
      let read := (readWords (merged.map (wordOf b)) s).2
      ∃ t, exec (.write m n offset count data) s = .next (answered m .ok [] t) ∧
        (∀ a, Memory.read t.store.mem a =
          if 256 * b.val + offset.toNat ≤ a ∧ a < 256 * b.val + offset.toNat + count.toNat ∧
            abandons ((a - 256 * b.val) / 8) = false then data.getD (a - (256 * b.val + offset.toNat)) 0
          else Memory.read s.store.mem a) ∧
        (∀ k, first ≤ k → k ≤ last →
          t.store.condition (wordOf b k) = if abandons k then .doubleUpset else .clean) ∧
        (∀ w : WordNo, ¬(32 * b.val + first ≤ w.val ∧ w.val ≤ 32 * b.val + last) →
          t.store.condition w = s.store.condition w) ∧
        t.store.buffer b = ⟨.owned m, (List.range 32).any abandons⟩ ∧
        (∀ c, c ≠ b → t.store.buffer c = s.store.buffer c) ∧
        t = { read with store := { read.store with mem := t.store.mem, upsets := t.store.upsets } } ∧
        ((List.range 32).any abandons = false →
          t = { s with store := { s.store with mem := t.store.mem, upsets := t.store.upsets }, counters := t.counters }) ∧
        t = { s with
          store := { s.store with
            mem := t.store.mem, upsets := t.store.upsets, buffers := t.store.buffers, damagedWords := t.store.damagedWords },
          line := { s.line with flags := t.line.flags }, counters := t.counters, notices := t.notices }) ∧
  (∀ (m : Master) (n offset count : Half) (data : List Byte) (s : State) (b : BufferId),
      Ready m 0x33 (halfBytes n ++ halfBytes offset ++ halfBytes count ++ data) s →
      b.val = n.toNat → 1 ≤ count.toNat → offset.toNat % 8 + count.toNat ≤ 8 → count.toNat < 8 → offset.toNat < 256 →
      s.store.buffer b = ⟨.owned m, false⟩ → s.store.condition (wordOf b (offset.toNat / 8)) = .doubleUpset →
      exec (.write m n offset count data) s =
        .next (answered m .ok [] (readWord (wordOf b (offset.toNat / 8)) s).2))

/-- READ: BAD BUFFER, BAD ARG and NOT YOURS, the first that applies. A READ that passes these checks returns the bytes of its span:
as written where the word is clean or single upset, as they stand where it is double upset; the status is DAMAGED if the buffer's
damaged flag is set, before or by a finding of this READ. No byte changes; the words read that were single upset are clean, and
those that were double upset stay so. The state is that after the reads through correction of the span's words, in ascending order,
with all their findings. With no double upset in the span only counters and conditions change. -/
def Obligations.ReadReturnsTheBytes : Prop :=
  ∀ (m : Master) (n offset count : Half) (s : State), Ready m 0x34 (halfBytes n ++ halfBytes offset ++ halfBytes count) s →
    let spans := 1 ≤ count.toNat ∧ count.toNat ≤ 64 ∧ offset.toNat + count.toNat ≤ 256
    (96 ≤ n.toNat → exec (.read m n offset count) s = .next (answered m .badBuffer [] s)) ∧
    ∀ b : BufferId, b.val = n.toNat →
      let readable := (s.store.buffer b).state = .owned m ∨ (∃ tag, (s.store.buffer b).state = .inJob m tag) ∨
        ∃ pending holders, (s.store.buffer b).state = .delivered pending holders ∧ holders.get m = true
      (¬spans → exec (.read m n offset count) s = .next (answered m .badArg [] s)) ∧
      (spans → ¬readable → exec (.read m n offset count) s = .next (answered m .notYours [] s)) ∧
      (spans → readable →
        let first := offset.toNat / 8
        let last := (offset.toNat + count.toNat - 1) / 8
        let found := (List.range 32).any fun k => decide (first ≤ k ∧ k ≤ last) &&
          decide (s.store.condition (wordOf b k) = .doubleUpset)
        let byte (x : Nat) : Byte := if s.store.condition (wordOf b (x / 8)) = .doubleUpset
          then (s.store.standing (wordOf b (x / 8))).getD (x % 8) 0 else Memory.read s.store.mem (256 * b.val + x)
        ∃ t, exec (.read m n offset count) s = .next (answered m
            (if (s.store.buffer b).damaged || found then .damaged else .ok)
            ((List.range count.toNat).map fun i => byte (offset.toNat + i)) t) ∧
          t = (readWords (wordsOf b first last) s).2 ∧
          (∀ k, first ≤ k → k ≤ last → t.store.condition (wordOf b k) =
            if s.store.condition (wordOf b k) = .doubleUpset then .doubleUpset else .clean) ∧
          (∀ w : WordNo, ¬(32 * b.val + first ≤ w.val ∧ w.val ≤ 32 * b.val + last) →
            t.store.condition w = s.store.condition w) ∧
          t.store.buffer b = ⟨(s.store.buffer b).state, (s.store.buffer b).damaged || found⟩ ∧
          (∀ c, c ≠ b → t.store.buffer c = s.store.buffer c) ∧
          (found = false → t = { s with store := { s.store with upsets := t.store.upsets }, counters := t.counters }) ∧
          t = { s with
            store := { s.store with
              upsets := t.store.upsets, buffers := t.store.buffers, damagedWords := t.store.damagedWords },
            line := { s.line with flags := t.line.flags }, counters := t.counters, notices := t.notices })

/-- SCRUB of a buffer OWNED by the requester or QUARANTINED: its 256 bytes read 0 and its words are clean, its damaged flag is
clear, its words are gone from the damaged-word table, and a QUARANTINED buffer is at the free tail. No other buffer changes. Any
other buffer is refused. -/
def Obligations.ScrubRestores : Prop :=
  ∀ (m : Master) (n : Half) (s : State), Ready m 0x35 (halfBytes n) s →
    (96 ≤ n.toNat → exec (.scrub m n) s = .next (answered m .badBuffer [] s)) ∧
    ∀ b : BufferId, b.val = n.toNat →
      ((s.store.buffer b).state ≠ .owned m → (s.store.buffer b).state ≠ .quarantined →
        exec (.scrub m n) s = .next (answered m .notYours [] s)) ∧
      ((s.store.buffer b).state = .owned m ∨ (s.store.buffer b).state = .quarantined → Memory.wf s.store.mem = true →
        ∃ t, exec (.scrub m n) s = .next (answered m .ok [] t) ∧
          (∀ a, Memory.read t.store.mem a =
            if 256 * b.val ≤ a ∧ a < 256 * b.val + 256 then 0 else Memory.read s.store.mem a) ∧
          (∀ w : WordNo, t.store.condition w = if bufferOf w = b then .clean else s.store.condition w) ∧
          t.store.damagedWords = (s.store.damagedWords.filter fun w => bufferOf w ≠ b) ∧
          t.store.buffer b =
            ⟨if (s.store.buffer b).state = .quarantined then .free else (s.store.buffer b).state, false⟩ ∧
          (∀ c, c ≠ b → t.store.buffer c = s.store.buffer c) ∧
          t.store.freeQueue =
            (if (s.store.buffer b).state = .quarantined then s.store.freeQueue ++ [b] else s.store.freeQueue) ∧
          t = { s with store := t.store } ∧ t.store.patrolIndex = s.store.patrolIndex)

/-! ### The job engine -/

/-- A SUBMIT that passes every check: the job stands at the tail of its master's outbound queue under the first tag, counting up from
the tag counter, that is not in use, its SEND buffers are IN-JOB of it, and each SEND order carries the header of its buffer. Beside
that, word 0 of each of these buffers has been read through correction. -/
def Obligations.SubmitQueuesTheJob : Prop :=
  ∀ (m : Master) (count : Byte) (orders : List OrderBytes) (list : List Order) (s : State),
    Ready m 0x40 (count :: orders.flatMap bytesOfOrder) s → 1 ≤ count.toNat → count.toNat ≤ 8 →
    orders.map parseOrder = list.map .ok →
    (∀ o ∈ list, ∀ b ∈ o.buffer?, s.store.buffer b = ⟨.owned m, false⟩ ∧
      s.store.condition (wordOf b 0) ≠ .doubleUpset ∧ (headerOf (s.store.written (wordOf b 0))).bad = false) →
    jobCount m s < 8 →
    let named (b : BufferId) : Bool := list.any fun o => o.buffer? = some b
    let read := (readWords (((List.finRange 96).filter named).map fun b => wordOf b 0) s).2
    ∃ (k : Nat) (tag : Byte), tag = s.jobs.tagCounter.get m + BitVec.ofNat 8 k ∧ k < 256 ∧ tag ∉ tagsInUse m s ∧
      (∀ j < k, s.jobs.tagCounter.get m + BitVec.ofNat 8 j ∈ tagsInUse m s) ∧
      ∃ t, exec (.submit m count orders) s = .next (answered m .ok [tag] t) ∧
        t.jobs = { s.jobs with
          outbound := s.jobs.outbound.modify m (· ++ [⟨m, tag,
            list.map fun o => ⟨o, o.buffer?.map fun b => headerOf (s.store.written (wordOf b 0))⟩,
            0, 0, 0, none, .none, none, none⟩]),
          tagCounter := s.jobs.tagCounter.set m (tag + 1) } ∧
        (∀ b, t.store.buffer b = if named b then ⟨.inJob m tag, false⟩ else s.store.buffer b) ∧
        t = { read with jobs := t.jobs, store := { read.store with buffers := t.store.buffers } }

/-- The refusals of SUBMIT, in their order: BAD ARG, BAD BUFFER, NOT YOURS and FULL before the header read, and after it DAMAGED for
a buffer whose damaged flag is set, before or by the read, and BAD FRAME for a header with a length above 240, an unknown kind, the
destination 0x00 or a source that is no unicast address. The header read's findings stand. What each order's four bytes give: the
order, BAD ARG or BAD BUFFER. -/
def Obligations.SubmitRefusals : Prop :=
  ∀ (m : Master) (count : Byte) (orders : List OrderBytes) (s : State),
    Ready m 0x40 (count :: orders.flatMap bytesOfOrder) s →
    let bad := ¬(1 ≤ count.toNat ∧ count.toNat ≤ 8) ∨ ∃ o ∈ orders, parseOrder o = .badArg
    let far := ∃ o ∈ orders, parseOrder o = .badBuffer
    let sent (b : BufferId) : Prop := ∃ o ∈ orders, parseOrder o = .ok (.send b)
    let foreign := ∃ b, sent b ∧ (s.store.buffer b).state ≠ .owned m
    let named (b : BufferId) : Bool := orders.any fun o => parseOrder o = .ok (.send b)
    let read := (readWords (((List.finRange 96).filter named).map fun b => wordOf b 0) s).2
    let damaged := ∃ b, sent b ∧ (read.store.buffer b).damaged = true
    let misformed := ∃ b h, sent b ∧ h = headerOf (s.store.written (wordOf b 0)) ∧
      (240 < h.length.toNat ∨ h.kind ∉ [0x10, 0x20, 0x30, 0x31, 0x40, 0x41] ∨ h.destination = 0 ∨
        ¬(1 ≤ h.source.toNat ∧ h.source.toNat ≤ 0xDF))
    (bad → exec (.submit m count orders) s = .next (answered m .badArg [] s)) ∧
    (¬bad → far → exec (.submit m count orders) s = .next (answered m .badBuffer [] s)) ∧
    (¬bad → ¬far → foreign → exec (.submit m count orders) s = .next (answered m .notYours [] s)) ∧
    (¬bad → ¬far → ¬foreign → 8 ≤ jobCount m s → exec (.submit m count orders) s = .next (answered m .full [] s)) ∧
    (¬bad → ¬far → ¬foreign → jobCount m s < 8 → damaged →
      exec (.submit m count orders) s = .next (answered m .damaged [] read)) ∧
    (¬bad → ¬far → ¬foreign → jobCount m s < 8 → ¬damaged → misformed →
      exec (.submit m count orders) s = .next (answered m .badFrame [] read)) ∧
    ∀ o : OrderBytes,
      let value := 256 * o.arg1.toNat + o.arg2.toNat
      let taken (c : Condition) : ParsedOrder := if o.arg2.toNat ≤ 7 then .ok (.branch c o.arg2.toNat) else .badArg
      (o.flags ≠ 0 ∨ o.code ∉ [0x01, 0x02, 0x03, 0x04, 0x05] → parseOrder o = .badArg) ∧
      (o.flags = 0 →
        (o.code = 0x01 → (96 ≤ value → parseOrder o = .badBuffer) ∧
          ∀ b : BufferId, b.val = value → parseOrder o = .ok (.send b)) ∧
        (o.code = 0x02 → parseOrder o = if 8 ≤ value ∧ value ≤ 4095 then .ok (.await value) else .badArg) ∧
        (o.code = 0x03 → parseOrder o =
          if o.arg1 = 1 then taken .replied else if o.arg1 = 2 then taken .busy else if o.arg1 = 3 then taken .silent
          else if o.arg1 = 4 then taken .notReplied else .badArg) ∧
        (o.code = 0x04 → parseOrder o = if 1 ≤ value ∧ value ≤ 4095 then .ok (.wait value) else .badArg) ∧
        (o.code = 0x05 → parseOrder o = if value = 0 then .ok .finish else .badArg))

/-- CANCEL: of a QUEUED job it completes CANCELLED; of the requester's RUNNING job it ends or withdraws what is in progress, or
records a pending end while the frame is on the wire; any other tag is NOT FOUND. -/
def Obligations.CancelEndsTheJob : Prop :=
  ∀ (m : Master) (tag : Byte) (s : State), Ready m 0x41 [tag] s →
    let queued := (s.jobs.outbound.get m).any fun j => j.tag = tag
    (queued = true → exec (.cancel m tag) s = .next (answered m .ok [] (raiseAt m .completion
      { s with
        store := s.store.returnJob m tag,
        jobs := { s.jobs with
          outbound := s.jobs.outbound.modify m fun q => q.filter fun j => j.tag ≠ tag,
          completions := s.jobs.completions.modify m (· ++ [⟨tag, .cancelled, none, 0, .none, none, s.timeBase⟩]) } }))) ∧
    (queued = false → (∀ r ∈ s.jobs.running, ¬(r.job.master = m ∧ r.job.tag = tag)) →
      exec (.cancel m tag) s = .next (answered m .notFound [] s)) ∧
    (queued = false → ∀ r, s.jobs.running = some r → r.job.master = m → r.job.tag = tag →
      (∀ left, r.doing = .wait left →
        exec (.cancel m tag) s = .next (answered m .ok [] (endJob .cancelled (some r.job.index) s))) ∧
      (∀ key left, r.doing = .await key left →
        exec (.cancel m tag) s = .next (answered m .ok [] (endJob .cancelled (some r.job.index)
          { s with
            jobs := { s.jobs with running := some { r with job := { r.job with lastAwait := .silent }, doing := .send } },
            delivery := { s.delivery with late := s.delivery.late.set m (some key) } }))) ∧
      (r.doing = .send → s.transmitter.waiting ≠ none →
        exec (.cancel m tag) s = .next (answered m .ok [] (endJob .cancelled (some r.job.index)
          { s with transmitter := { s.transmitter with waiting := none } }))) ∧
      (r.doing = .send → s.transmitter.waiting = none → r.job.pendingEnd ≠ none →
        exec (.cancel m tag) s = .next (answered m .ok [] s)) ∧
      (r.doing = .send → s.transmitter.waiting = none → r.job.pendingEnd = none →
        exec (.cancel m tag) s = .next (answered m .ok []
          { s with jobs := { s.jobs with running := some { r with job := { r.job with pendingEnd := some .cancelled } } } })))

/-- The end of the RUNNING job: no job is RUNNING, its buffers are OWNED by its master, its completion entry stands at the
tail of the completion queue, and a COMPLETION request is raised. Nothing else changes. What the order that is due does: past the
list the job ends ORDER ERROR, with 32 steps begun it ends STEP LIMIT, and otherwise one step more is begun. END ends it OK with no
failing order index. WAIT and AWAIT start their timers; an AWAIT empties the late-reply record and takes its capture key from the
last SEND, which must have been a REQUEST. BRANCH sets the order index and the next order is due at once. SEND begins its first
attempt. An attempt is checked for its source, its destination, a hold of its destination and the buffer's damage, in this order,
and then waits with the image fetched, its backoff, and whether its completion makes a loop-back copy. -/
def Obligations.EndOfAJob : Prop :=
  (∀ (outcome : JobOutcome) (failing : Option Nat) (r : Running) (s : State), s.jobs.running = some r →
      let t := endJob outcome failing s
      t.jobs = { s.jobs with
        running := none,
        completions := s.jobs.completions.modify r.job.master (· ++
          [⟨r.job.tag, outcome, failing, r.job.steps, r.job.lastAwait, r.job.reply, s.timeBase⟩]) } ∧
      (∀ b, t.store.buffer b =
        if (s.store.buffer b).state = .inJob r.job.master r.job.tag then ⟨.owned r.job.master, (s.store.buffer b).damaged⟩
        else s.store.buffer b) ∧
      t = raiseAt r.job.master .completion { s with jobs := t.jobs, store := { s.store with buffers := t.store.buffers } }) ∧
  (∀ (fuel : Nat) (r : Running) (s : State), s.jobs.running = some r →
      let begun : Job := { r.job with steps := r.job.steps + 1 }
      let runs (j : Job) (d : Doing) : State := { s with jobs := { s.jobs with running := some { r with job := j, doing := d } } }
      (r.job.orders[r.job.index]? = none →
        orderDue (fuel + 1) s = endJob .orderError (some r.job.index) s) ∧
      ∀ o h, r.job.orders[r.job.index]? = some ⟨o, h⟩ →
        (32 ≤ r.job.steps → orderDue (fuel + 1) s = endJob .stepLimit (some r.job.index) s) ∧
        (r.job.steps < 32 →
          (o = .finish → orderDue (fuel + 1) s = endJob .ok none (runs begun r.doing)) ∧
          (∀ t, o = .wait t → orderDue (fuel + 1) s = runs begun (.wait (t * 11))) ∧
          (∀ t last, o = .await t → r.job.lastSend = some last → last.kind = 0x20 →
            orderDue (fuel + 1) s = { runs begun (.await last.key (t * 11)) with
              delivery := { s.delivery with late := s.delivery.late.set r.job.master none } }) ∧
          (∀ t, o = .await t → (∀ last ∈ r.job.lastSend, last.kind ≠ 0x20) →
            orderDue (fuel + 1) s = endJob .orderError (some r.job.index) (runs begun r.doing)) ∧
          (∀ condition target, o = .branch condition target →
            let met := match condition with
              | .replied => r.job.lastAwait = .replied
              | .busy => r.job.lastAwait = .busy
              | .silent => r.job.lastAwait = .silent
              | .notReplied => r.job.lastAwait ≠ .replied
            (met → orderDue (fuel + 1) s = orderDue fuel (runs { begun with index := target } r.doing)) ∧
            (¬met → orderDue (fuel + 1) s = orderDue fuel (runs { begun with index := r.job.index + 1 } r.doing))) ∧
          (∀ b header, o = .send b → h = some header →
            orderDue (fuel + 1) s = beginAttempt { r with job := { begun with retries := 0 }, doing := .send } b header
              (runs { begun with retries := 0 } .send)))) ∧
  (∀ (r : Running) (b : BufferId) (h : Header) (s : State), s.jobs.running = some r →
      let ends (outcome : JobOutcome) (u : State) : State := endJob outcome (some r.job.index) u
      let owner := ownerOf s.table h.destination
      let isLocal := owner = some r.job.master ∨ (owner ≠ none ∧ h.kind ≠ 0x10)
      let held := ∃ e ∈ s.holds, e.station = h.destination
      let fetched := readWords (wordsOf b 0 ((4 + h.length.toNat) / 8)) s
      (ownerOf s.table h.source ≠ some r.job.master → beginAttempt r b h s = ends .notOwner s) ∧
      (ownerOf s.table h.source = some r.job.master →
        (isLocal → beginAttempt r b h s = ends .localTarget s) ∧
        (¬isLocal → held → beginAttempt r b h s = ends .held s) ∧
        (¬isLocal → ¬held → (fetched.2.store.buffer b).damaged = true → beginAttempt r b h s = ends .storeError fetched.2) ∧
        (¬isLocal → ¬held → (fetched.2.store.buffer b).damaged = false →
          beginAttempt r b h s = { fetched.2 with transmitter := { s.transmitter with
            waiting := some ⟨fetched.1.take (5 + h.length.toNat),
              if r.job.retries = 0 then 0 else (h.source.toNat % 8 + 1) * 2,
              decide (h.kind = 0x10) && (decide (¬(1 ≤ h.destination.toNat ∧ h.destination.toNat ≤ 0xDF)) ||
                owner.isSome)⟩ } })))

/-- TAKE COMPLETION and TAKE DELIVERY: EMPTY for an empty queue, else the head entry is removed and returned, behind the number of
entries left, in the 11 bytes of R173 or the 12 bytes of R172; TAKE DELIVERY moves its master from the pending set to the holder set
of the entry's buffer. -/
def Obligations.TakeFromQueues : Prop :=
  ∀ (m : Master) (s : State),
    let time (x : BitVec 32) : List Byte := [BitVec.ofNat 8 (x.toNat / 2 ^ 24), BitVec.ofNat 8 (x.toNat / 2 ^ 16),
      BitVec.ofNat 8 (x.toNat / 2 ^ 8), BitVec.ofNat 8 x.toNat]
    (Ready m 0x42 [] s →
      (s.jobs.completions.get m = [] → exec (.takeCompletion m) s = .next (answered m .empty [] s)) ∧
      ∀ c rest, s.jobs.completions.get m = c :: rest →
        let outcome : Byte := match c.outcome with
          | .ok => 0 | .collided => 1 | .storeError => 2 | .notOwner => 3 | .localTarget => 4 | .held => 5
          | .orderError => 6 | .stepLimit => 7 | .tenureLimit => 8 | .cancelled => 9 | .lineLost => 10
        let awaited : Byte := match c.lastAwait with
          | .none => 0 | .replied => 1 | .busy => 2 | .silent => 3
        let failing : Byte := match c.failing with
          | some i => BitVec.ofNat 8 i
          | none => 0xFF
        let reply : List Byte := match c.reply with
          | some b => [0, BitVec.ofNat 8 b.val]
          | none => [0xFF, 0xFF]
        exec (.takeCompletion m) s = .next (answered m .ok
          (BitVec.ofNat 8 rest.length :: [c.tag, outcome, failing, BitVec.ofNat 8 c.steps, awaited] ++ reply ++
            time c.timestamp)
          { s with jobs := { s.jobs with completions := s.jobs.completions.set m rest } })) ∧
    (Ready m 0x50 [] s →
      (s.delivery.inbound.get m = [] → exec (.takeDelivery m) s = .next (answered m .empty [] s)) ∧
      ∀ e rest pending holders, s.delivery.inbound.get m = e :: rest →
        (s.store.buffer e.buffer).state = .delivered pending holders →
        let flags : Byte := (if e.group then 1 else 0) + (if e.late then 2 else 0) + (if e.isLocal then 4 else 0)
        exec (.takeDelivery m) s = .next (answered m .ok
          (BitVec.ofNat 8 rest.length :: [0, BitVec.ofNat 8 e.buffer.val, e.header.kind, e.header.source,
            e.header.destination, e.header.sequence, e.header.length] ++ time e.timestamp ++ [flags])
          { s with
            delivery := { s.delivery with inbound := s.delivery.inbound.set m rest },
            store := s.store.setState e.buffer
              (.delivered (MasterSet.erase pending m) (MasterSet.insert holders m)) }))

/-- GRANT with no job RUNNING, the line UP and listen-only off: the first master in port order from the pointer whose head is
eligible is granted, its head job RUNNING with a full tenure, the pointer past it and its first order due. Under any other
condition no grant is made. A job without a SEND order is eligible, and any other exactly while the cached destination of its first
SEND order does not stand in the hold list. A SEND that the grant makes due is left before its first attempt; everywhere else an order
that is due begins it at once. The attempt begins before every step in which time passes and before every command, but after a frame
end that falls together with the grant (assumption log 17). -/
def Obligations.GrantRunsTheFirstEligibleHead : Prop :=
  (∀ s : State,
    (s.jobs.running = none → s.line.state.isUp = true → s.line.settings.listenOnly = false →
      ∀ before m after j rest, Master.startingAt s.jobs.pointer = before ++ m :: after →
        (∀ n ∈ before, ∀ h tail, s.jobs.outbound.get n = h :: tail → eligible s.holds h = false) →
        s.jobs.outbound.get m = j :: rest → eligible s.holds j = true →
        exec .grant s = .next (orderReached 33 { s with jobs := { s.jobs with
          outbound := s.jobs.outbound.set m rest,
          running := some ⟨j, 2 ^ s.line.settings.tenureExponent * 11, .send⟩,
          pointer := m.next } })) ∧
    (s.jobs.running ≠ none ∨ s.line.state.isUp = false ∨ s.line.settings.listenOnly = true ∨
      (∀ n ∈ Master.all, ∀ h tail, s.jobs.outbound.get n = h :: tail → eligible s.holds h = false) →
      exec .grant s = .next s) ∧
    ∀ j : Job,
      ((∀ o ∈ j.orders, ∀ b, o.order ≠ .send b) → eligible s.holds j = true) ∧
      ∀ before b h after, j.orders = before ++ ⟨.send b, some h⟩ :: after → (∀ o ∈ before, ∀ c, o.order ≠ .send c) →
        (eligible s.holds j = true ↔ ∀ e ∈ s.holds, e.station ≠ h.destination)) ∧
  (∀ (fuel : Nat) (s : State),
    orderDue fuel s = takeAttempt (orderReached fuel s) ∧ Settled (takeAttempt s) ∧ (Settled s → takeAttempt s = s) ∧
    ∀ r, s.jobs.running = some r →
      let runs (j : Job) (d : Doing) : State := { s with jobs := { s.jobs with running := some { r with job := j, doing := d } } }
      (∀ b h, r.doing = .due b h → takeAttempt s = beginAttempt { r with doing := .send } b h (runs r.job .send)) ∧
      (∀ b h, r.job.orders[r.job.index]? = some ⟨.send b, some h⟩ → r.job.steps < 32 →
        orderReached (fuel + 1) s = runs { r.job with steps := r.job.steps + 1, retries := 0 } (.due b h)) ∧
      ∀ condition target h, r.job.orders[r.job.index]? = some ⟨.branch condition target, h⟩ → r.job.steps < 32 →
        let met := match condition with
          | .replied => r.job.lastAwait = .replied
          | .busy => r.job.lastAwait = .busy
          | .silent => r.job.lastAwait = .silent
          | .notReplied => r.job.lastAwait ≠ .replied
        let taken (index : Nat) : State := runs { r.job with steps := r.job.steps + 1, index := index } r.doing
        (met → orderReached (fuel + 1) s = orderReached fuel (taken target)) ∧
        (¬met → orderReached (fuel + 1) s = orderReached fuel (taken (r.job.index + 1)))) ∧
  ∀ (i : Instr) (s : State), BeginsAttempt s i → exec i s = exec i (takeAttempt s)

/-- The response timer's expiry ends the AWAIT SILENT and sets the late-reply record, the wait timer's expiry ends the WAIT, and in
both cases the next order is due; the tenure timer's expiry ends the job in an AWAIT or a WAIT, withdraws a waiting attempt, and
records a pending end while the frame is on the wire. -/
def Obligations.JobTimersExpire : Prop :=
  ∀ (s : State) (r : Running), s.jobs.running = some r →
    let later (n : Nat) (job : Job) (doing : Doing) : State :=
      { lineTime n s with jobs := { s.jobs with running := some ⟨job, r.tenure - n, doing⟩ } }
    let lateNow := s.delivery.late.set r.job.master
    (∀ key left, r.doing = .await key left →
      exec .responseTimerExpiry s = .next (orderDue 33
        { later left { r.job with lastAwait := .silent, index := r.job.index + 1 } .send with
          delivery := { s.delivery with late := lateNow (some key) } }) ∧
      exec .tenureTimerExpiry s = .next (endJob .tenureLimit (some r.job.index)
        { later r.tenure { r.job with lastAwait := .silent } .send with
          delivery := { s.delivery with late := lateNow (some key) } })) ∧
    (∀ left, r.doing = .wait left →
      exec .waitTimerExpiry s =
        .next (orderDue 33 (later left { r.job with index := r.job.index + 1 } (.wait 0))) ∧
      exec .tenureTimerExpiry s =
        .next (endJob .tenureLimit (some r.job.index) (later r.tenure r.job (.wait (left - r.tenure))))) ∧
    (r.doing = .send → s.transmitter.waiting ≠ none →
      exec .tenureTimerExpiry s = .next (endJob .tenureLimit (some r.job.index)
        { later r.tenure r.job .send with
          transmitter := ⟨(lineTime r.tenure s).transmitter.wire, none, s.transmitter.slot⟩ })) ∧
    (r.doing = .send → s.transmitter.waiting = none → r.job.pendingEnd ≠ none →
      exec .tenureTimerExpiry s = .next (later r.tenure r.job .send)) ∧
    (r.doing = .send → s.transmitter.waiting = none → r.job.pendingEnd = none →
      exec .tenureTimerExpiry s = .next (later r.tenure { r.job with pendingEnd := some .tenureLimit } .send))

/-! ### The receiver and the delivery unit -/

/-- Fed the nine bytes 0x31 to 0x39, the check is 0x29B1. -/
def Obligations.CheckOfTheNineDigits : Prop :=
  crcOf [0x31, 0x32, 0x33, 0x34, 0x35, 0x36, 0x37, 0x38, 0x39] = 0x29B1

/-- A character on RXD, address or body. On a line that is DOWN it does nothing. With DE raised it restarts the idle measurements and
is not received; in the turnaround delay its 11 bit times pass, and while a frame is sending they are those of the character being
sent (assumption log 13). With DE low it is taken as `CharacterTaken` says, its time passed and the measurements and the silence timer
restarted. A frame that an address character cuts is a bad frame: in QUALIFY it takes the line to SEEK, in UP with LEARN mode it is
one more of the run and the eighth takes the line to SEEK; the frame just begun is then abandoned (assumption logs 6 and 16). What a
character in SEEK does besides is RateIsMeasured. -/
def Obligations.CharactersAreTaken : Prop :=
  ∀ (data : Byte) (stop address : Bool) (low : Nat) (runs : List Rat) (s : State), Settled s →
    let character : Instr := if address then .addressCharacter data stop runs low else .bodyCharacter data stop runs low
    let restarted (u : State) : State :=
      { u with line := { u.line with idle := 0, access := 0, low := if stop then 0 else low } }
    let passed := lineTime (s.line.low + 11) s
    let cuts := address = true ∧ s.receiver ≠ none
    (s.line.state = .down → exec character s = .next s) ∧
    (s.line.state ≠ .down →
      (∀ f rest, s.transmitter.wire = .sending f rest → exec character s = .next (restarted s)) ∧
      (∀ f left, s.transmitter.wire = .turnaround f left → exec character s = .next (restarted passed))) ∧
    (s.transmitter.wire = .none →
      (∀ silence bad, s.line.state = .up silence bad →
        ∃ taken, CharacterTaken address data stop
          (restarted { passed with line := { passed.line with state := .up 0 bad } }) taken ∧
        (¬cuts ∨ s.line.settings.rateMode = .fixed → exec character s = .next taken) ∧
        (cuts → s.line.settings.rateMode = .learn → bad < 7 → exec character s =
          .next { taken with line := { taken.line with state := .up 0 (bad + 1) } }) ∧
        (cuts → s.line.settings.rateMode = .learn → 7 ≤ bad → ∃ t, exec character s = .next t ∧
          LeftUp taken t ∧ t.line = { taken.line with state := .seek [], flags := t.line.flags })) ∧
      (∀ candidate count window, s.line.state = .qualify candidate count window →
        ∃ taken, CharacterTaken address data stop (restarted passed) taken ∧
        (¬cuts → exec character s = .next taken) ∧
        (cuts → exec character s =
          .next { taken with line := { taken.line with state := .seek [] }, receiver := none })))

/-- The frame end of a bad frame on a line that is UP: the first error in the order of R60 (framing, length, CRC, source, kind) is
counted in every copy, its buffer leaves use and nothing is delivered. In LEARN mode it is one more of the bad-frame run, and the
eighth in a row leaves UP for SEEK. A frame with none of these errors is good. A counted event raises exactly its own counter, in
every copy or in one master's, by one below 255 and not from 255; every other counter and all else stays. The header
of an image is its bytes 0 to 4. -/
def Obligations.BadFrameIsCounted : Prop :=
  (∀ c : Byte, countUp c = if c = 255 then 255 else c + 1) ∧
  (∀ (n : CounterName) (m : Master) (s : State),
    let raised (k : Counters) : Counters := match n with
      | .framesIn => { k with framesIn := countUp k.framesIn }
      | .missed => { k with missed := countUp k.missed }
      | .busySent => { k with busySent := countUp k.busySent }
      | .noBuffer => { k with noBuffer := countUp k.noBuffer }
      | .crcErrors => { k with crcErrors := countUp k.crcErrors }
      | .formatErrors => { k with formatErrors := countUp k.formatErrors }
      | .collisions => { k with collisions := countUp k.collisions }
      | .corrected => { k with corrected := countUp k.corrected }
      | .uncorrectable => { k with uncorrectable := countUp k.uncorrectable }
    countAll n s = { s with counters :=
      ⟨raised s.counters.a, raised s.counters.b, raised s.counters.c, raised s.counters.d⟩ } ∧
    countAt m n s = { s with counters := s.counters.set m (raised (s.counters.get m)) }) ∧
  (∀ bytes : List Byte,
    headerOf bytes = ⟨bytes.getD 0 0, bytes.getD 1 0, bytes.getD 2 0, bytes.getD 3 0, bytes.getD 4 0⟩) ∧
  ∀ (s : State) (f : Frame) (silence bad : Nat), FrameEndSettled s → s.receiver = some f → s.line.state = .up silence bad →
    let h := headerOf f.header
    let framing := f.firstError = some .framing
    let length := f.header.length < 5 ∨ 240 < h.length.toNat ∨ f.count ≠ 7 + h.length.toNat
    let crc := f.check ≠ [BitVec.ofNat 8 (f.crc.toNat / 256), BitVec.ofNat 8 f.crc.toNat]
    let source := ¬(1 ≤ h.source.toNat ∧ h.source.toNat ≤ 0xDF)
    let kind := h.kind ∉ [0x10, 0x20, 0x30, 0x31, 0x40, 0x41] ∨ (h.kind ∈ [0x30, 0x31] ∧ 0xE0 ≤ h.destination.toNat)
    let wait := s.line.low + (22 - s.line.idle)
    let ended := { lineTime wait s with receiver := none }
    let still := min (2 ^ s.line.settings.silenceExponent * 11) (silence + wait)
    let endsAs (n : CounterName) : Prop :=
      let lost := countAll n { ended with store := abandonedStore s }
      (s.line.settings.rateMode = .fixed → exec .frameEnd s = .next lost) ∧
      (s.line.settings.rateMode = .learn → bad < 7 →
        exec .frameEnd s = .next { lost with line := { lost.line with state := .up still (bad + 1) } }) ∧
      (s.line.settings.rateMode = .learn → 7 ≤ bad → ∃ t, exec .frameEnd s = .next t ∧
        LeftUp lost t ∧ t.line = { lost.line with state := .seek [], flags := t.line.flags })
    (framing ∨ length → endsAs .formatErrors) ∧
    (¬framing → ¬length → crc → endsAs .crcErrors) ∧
    (¬framing → ¬length → ¬crc → source ∨ kind → endsAs .formatErrors) ∧
    (frameError f = none ↔ ¬(framing ∨ length ∨ crc ∨ source ∨ kind))

/-- The frame end of a good, matched DATA frame, or of a good, matched REQUEST to a group address or to 0xFF, on a line that is UP. The
target set of 0xFF is the masters with accept broadcast on, that of any other address the subscribers of its entry; the one
subscriber of a unicast address owns it. With a buffer: every target whose queue has room takes an entry, counts FRAMES IN and gets a
DELIVERY request; every other target counts MISSED and gets a MISSED request; the buffer is DELIVERED to those that took it, or leaves
use. Without one: every target counts MISSED and NO BUFFER and gets a MISSED request. -/
def Obligations.DataFrameIsFannedOut : Prop :=
  (∀ (s : State) (d : Byte) (m : Master), TableLaw s →
    (targetSet s 0xFF).get m = (s.ports.get m).settings.acceptBroadcast ∧
    (d ≠ 0xFF → ((targetSet s d).get m = true ↔ ∃ e ∈ s.table, e.address = d ∧ e.subscribers.get m = true)) ∧
    (ownerOf s.table d = some m ↔ (1 ≤ d.toNat ∧ d.toNat ≤ 0xDF) ∧
      ∃ e ∈ s.table, e.address = d ∧ e.subscribers = MasterSet.singleton m)) ∧
  ∀ (s : State) (f : Frame), FrameEndSettled s → s.receiver = some f → frameError f = none → f.matched = some true →
    s.line.state.isUp = true →
    let h := headerOf f.header
    h.kind = 0x10 ∨ (h.kind = 0x20 ∧ 0xE0 ≤ h.destination.toNat) →
    let ended := goodFrameEnded s
    ∃ t, exec .frameEnd s = .next t ∧ Delivered (targetSet s h.destination).get h false ended t f.buffer

/-- The frame end of a good, matched unicast REQUEST. With a buffer and the owner's queue depth below its busy threshold it is
delivered to the owner. At the threshold the buffer leaves use and MISSED is counted and requested at the owner; without a buffer
MISSED and NO BUFFER are. In these two cases, with listen-only off, the BUSY that answers it is in the auto-response slot, and BUSY
SENT is counted in the first. A REQUEST to an address that no master owns any more is discarded. -/
def Obligations.RequestIsAnsweredBusy : Prop :=
  ∀ (s : State) (f : Frame), FrameEndSettled s → s.receiver = some f → frameError f = none →
    f.matched = some true → s.line.state.isUp = true →
    let h := headerOf f.header
    h.kind = 0x20 → 1 ≤ h.destination.toNat ∧ h.destination.toNat ≤ 0xDF →
    let ended := goodFrameEnded s
    let answer : Option AutoBusy :=
      if s.line.settings.listenOnly then s.transmitter.slot else some ⟨h.source, h.destination, h.sequence⟩
    let placed : Transmitter := { ended.transmitter with slot := answer }
    (ownerOf s.table h.destination = none → exec .frameEnd s = .next { ended with store := abandonedStore s }) ∧
    ∀ m, ownerOf s.table h.destination = some m →
      (f.buffer = none → exec .frameEnd s =
        .next { lostWithoutBuffer (fun n => decide (n = m)) ended with transmitter := placed }) ∧
      ∀ b, f.buffer = some b →
        ((s.delivery.inbound.get m).length < (s.ports.get m).settings.busyThreshold →
          ∃ t, exec .frameEnd s = .next t ∧ Delivered (fun n => decide (n = m)) h false ended t (some b)) ∧
        ((s.ports.get m).settings.busyThreshold ≤ (s.delivery.inbound.get m).length →
          let refused := { raiseAt m .missed (countAt m .missed ended) with
            store := s.store.leaveUse b, transmitter := placed }
          exec .frameEnd s = .next (if s.line.settings.listenOnly then refused else countAt m .busySent refused))

/-- The frame end of a good, matched REPLY or BUSY. One that answers the running job's AWAIT is captured: its buffer, if it has one,
is the job's reply buffer, the reply buffer before it leaves use, the AWAIT outcome is recorded and the next order is due; without a
buffer MISSED and NO BUFFER are counted at the job's master. One that is not captured and answers the late-reply record of its
destination's owner is delivered to the owner with LATE, and the record is empty; any other is delivered to its frame-end targets in
the ordinary way. -/
def Obligations.ReplyIsCaptured : Prop :=
  ∀ (s : State) (f : Frame), FrameEndSettled s → s.receiver = some f → frameError f = none → f.matched = some true →
    s.line.state.isUp = true →
    (headerOf f.header).kind = 0x30 ∨ (headerOf f.header).kind = 0x31 →
    let h := headerOf f.header
    let wait := s.line.low + (22 - s.line.idle)
    let ended := goodFrameEnded s
    let outcome := if h.kind = 0x30 then AwaitOutcome.replied else AwaitOutcome.busy
    let answers (key : SendKey) : Prop :=
      h.destination = key.source ∧ h.source = key.destination ∧ h.sequence = key.sequence
    (∀ r key left, s.jobs.running = some r → r.doing = .await key left → answers key →
      let taken := match f.buffer with
        | some b => { ended with store := s.store.setState b (.inJob r.job.master r.job.tag) }
        | none => lostWithoutBuffer (fun n => decide (n = r.job.master)) ended
      exec .frameEnd s = .next (orderDue 33 { taken with
        store := (match r.job.reply with
          | some old => taken.store.leaveUse old
          | none => taken.store),
        jobs := { s.jobs with
          running := some ⟨{ r.job with reply := f.buffer, lastAwait := outcome, index := r.job.index + 1 },
            r.tenure - wait, .send⟩ } })) ∧
    ((∀ r key left, s.jobs.running = some r → r.doing = .await key left → ¬answers key) →
      (∀ m key, ownerOf s.table h.destination = some m → s.delivery.late.get m = some key → answers key →
        ∃ t, exec .frameEnd s = .next t ∧ Delivered (fun n => decide (n = m)) h true
          { ended with delivery := { s.delivery with late := s.delivery.late.set m none } } t f.buffer) ∧
      ((∀ m key, ownerOf s.table h.destination = some m → s.delivery.late.get m = some key → ¬answers key) →
        ∃ t, exec .frameEnd s = .next t ∧ Delivered (targetSet s h.destination).get h false ended t f.buffer))

/-- The frame end of a good, matched HOLD or RESUME: the hold list takes it, the buffer leaves use and nothing else changes but the
line timers. A HOLD that falls together with a grant, the grant taken first, leaves the granted job RUNNING, and its first SEND, if it
names the station, then fails at its hold check. -/
def Obligations.HoldAndResumeAreTaken : Prop :=
  ∀ (s : State) (f : Frame), FrameEndSettled s → s.receiver = some f → frameError f = none → f.matched = some true →
    s.line.state.isUp = true →
    let h := headerOf f.header
    let ended := goodFrameEnded s
    (h.kind = 0x40 → exec .frameEnd s = .next { ended with
      store := abandonedStore s, holds := takeHold h.source (2 ^ s.line.settings.holdExponent * 11) ended.holds }) ∧
    (h.kind = 0x41 → exec .frameEnd s = .next { ended with
      store := abandonedStore s, holds := ended.holds.filter fun e => e.station ≠ h.source }) ∧
    ∀ r b header, s.jobs.running = some r → r.doing = .due b header → h.kind = 0x40 → header.destination = h.source →
      ownerOf s.table header.source = some r.job.master → ownerOf s.table h.source = none →
      ∃ t, exec .frameEnd s = .next t ∧ t.jobs.running = some r ∧ takeAttempt t = endJob .held (some r.job.index)
        { t with jobs := { t.jobs with running := some { r with doing := .send } } }

/-- A HOLD taken by the hold list: a present entry restarts in its place, a new entry comes last, and with 8 entries the earliest
of those with the least remaining time is replaced. HOLD_ENTRY_EXPIRY lets the least remaining time pass and removes every entry
that is then at 0. -/
def Obligations.HoldListRules : Prop :=
  (∀ (station : Byte) (time : Nat) (holds : List HoldEntry),
    ((∃ e ∈ holds, e.station = station) → takeHold station time holds =
      holds.map fun e => if e.station = station then ⟨e.station, time⟩ else e) ∧
    ((∀ e ∈ holds, e.station ≠ station) →
      (holds.length < 8 → takeHold station time holds = holds ++ [⟨station, time⟩]) ∧
      (8 ≤ holds.length → ∀ before e after, holds = before ++ e :: after →
        (∀ x ∈ before, e.remaining < x.remaining) → (∀ x ∈ after, e.remaining ≤ x.remaining) →
        takeHold station time holds = before ++ after ++ [⟨station, time⟩]))) ∧
  ∀ (s : State) (e : HoldEntry), Settled s → e ∈ s.holds → (∀ x ∈ s.holds, e.remaining ≤ x.remaining) →
    exec .holdEntryExpiry s = .next { lineTime e.remaining s with
      holds := (s.holds.map fun x => (⟨x.station, x.remaining - e.remaining⟩ : HoldEntry)).filter
        fun x => x.remaining ≠ 0 }

/-! ### The transmitter -/

/-- A waiting attempt begins to send once the line has been idle for the access gap and its backoff since the last stop bit, and the
slot's BUSY once the end gap is met, which begins only when RXD is 1 again; DE is raised and the first character is the destination
with mark bit 1. An attempt stands aside for a BUSY whose end gap is met by the time that its own wait is. -/
def Obligations.SendingBegins : Prop :=
  ∀ s : State, Settled s → s.transmitter.wire = .none → s.receiver = none →
    let toEndGap := s.line.low + (22 - s.line.idle)
    let begins (sender : Sender) (image : List Byte) : Wire :=
      .sending ⟨sender, false, false, s.line.settings.turnaround⟩ (frameCharacters image)
    (∀ a, s.transmitter.waiting = some a →
      let toAccess := (s.line.settings.accessGap + a.backoff) * 11 - s.line.access
      (s.transmitter.slot = none ∨ toAccess < toEndGap → exec .attemptBeginsSending s = .next
        { lineTime toAccess s with transmitter := ⟨begins (.job a) a.copy, none, s.transmitter.slot⟩ }) ∧
      (s.transmitter.slot ≠ none → toEndGap ≤ toAccess → exec .attemptBeginsSending s = .next s)) ∧
    (∀ b, s.transmitter.slot = some b → exec .automaticBusyStart s = .next
      { lineTime toEndGap s with
        transmitter := ⟨begins (.busy b) [b.destination, b.source, 0x31, b.sequence, 0], s.transmitter.waiting, none⟩ }) ∧
    ∀ (first : Byte) (rest : List Byte), frameCharacters (first :: rest) = ⟨true, first⟩ ::
      (rest ++ [BitVec.ofNat 8 ((crcOf (first :: rest)).toNat / 256), BitVec.ofNat 8 (crcOf (first :: rest)).toNat]).map
        fun d => ⟨false, d⟩

/-- A character has been sent: it takes 11 bit times, and on a line in use it restarts the idle measurements and the silence timer.
With the echo of an uncut frame equal the next one follows, or TURNAROUND after the last, with the delay under which the frame began
(that delay is fixed then: assumption log 14); with the echo different the frame has collided, no further character is sent and
COLLISIONS is counted in every copy. A cut frame's last character is not compared (assumption log 8). -/
def Obligations.EchoIsCompared : Prop :=
  ∀ (s : State) (f : OnWire) (c : TxCharacter) (rest : List TxCharacter) (echo : BitVec 11) (low : Nat), Settled s →
    s.transmitter.wire = .sending f (c :: rest) →
    let passed := lineTime 11 s
    let after := if s.line.state = .down then passed else { passed with line := { passed.line with
      state := match passed.line.state with
        | .up _ bad => .up 0 bad
        | l => l
      idle := 0, access := 0, low := if echo.getLsbD 10 then 0 else low } }
    let wired (w : Wire) : State := { after with transmitter := { after.transmitter with wire := w } }
    let sent := wired (if rest.isEmpty then .turnaround f f.delay else .sending f rest)
    exec (.characterSent echo low) s = .next
      (if f.cut = true ∨ echo = BitVec.ofNat 11 (2 * c.data.toNat + 512 * c.mark.toNat + 1024) then sent
      else countAll .collisions (wired (.turnaround { f with collided := true } f.delay)))

/-- DE is released when what is left of the turnaround delay has passed: an automatic BUSY and a cut frame are done with no other
effect. A collision ends a job with a pending end, begins a new attempt while retries are left, and otherwise ends the job COLLIDED.
A frame that has been sent sets the last SEND and makes its loop-back copy if it has one; then a pending end ends the job, and
otherwise the next order is due. (That the delay is the one under which the frame began is assumption log 14.) -/
def Obligations.DriverIsReleased : Prop :=
  ∀ (s : State) (f : OnWire) (left : Nat), Settled s → s.transmitter.wire = .turnaround f left →
    let passed := lineTime left s
    let low : State := { passed with transmitter := { passed.transmitter with wire := .none } }
    let runs (r : Running) (u : State) : State := { u with jobs := { u.jobs with running := some r } }
    (∀ reply, f.sender = .busy reply → exec .deRelease s = .next low) ∧
    (f.cut = true → exec .deRelease s = .next low) ∧
    ∀ a r b h, f.sender = .job a → f.cut = false → low.jobs.running = some r →
      r.job.orders[r.job.index]? = some ⟨.send b, some h⟩ →
      let ending (p : PendingEnd) : JobOutcome := match p with
        | .cancelled => .cancelled
        | .tenureLimit => .tenureLimit
      let sent : Job := { r.job with lastSend := some ⟨h.kind, ⟨h.destination, h.source, h.sequence⟩⟩ }
      let goesOn (u : State) : State := match r.job.pendingEnd with
        | some p => endJob (ending p) (some r.job.index) u
        | none => orderDue 33 (runs { r with job := { sent with index := r.job.index + 1 } } u)
      (∀ p, f.collided = true → r.job.pendingEnd = some p →
        exec .deRelease s = .next (endJob (ending p) (some r.job.index) low)) ∧
      (f.collided = true → r.job.pendingEnd = none → s.line.settings.retryLimit ≤ r.job.retries →
        exec .deRelease s = .next (endJob .collided (some r.job.index) low)) ∧
      (f.collided = true → r.job.pendingEnd = none → r.job.retries < s.line.settings.retryLimit →
        let again : Running := { r with job := { r.job with retries := r.job.retries + 1 } }
        exec .deRelease s = .next (beginAttempt again b h (runs again low))) ∧
      (f.collided = false → a.loopBack = false →
        exec .deRelease s = .next (goesOn (runs { r with job := sent } low))) ∧
      (f.collided = false → a.loopBack = true → a.copy.length ≤ 245 →
        ∃ u, LoopedBack r.job.master a.copy (runs { r with job := sent } low) u ∧
          exec .deRelease s = .next (goesOn u))

/-! ### Notices, counters, the time base -/

/-- NOTICE takes the highest-priority takeable source and makes it active, or takes none and changes nothing; it returns the source's
number, the line state, how many damaged buffers the master holds, the lengths of its completion and inbound queues, and for MISSED
the copy of that counter. ATTN# is low exactly while a source is takeable. A request raised at a master, or at every master, sets that
source's request and nothing else; a latched line flag changes in every master's copy. -/
def Obligations.NoticeTakesTheHighest : Prop :=
  (∀ (n : NoticeSource) (m : Master) (s : State),
    let raised (r : PerSource) : PerSource := match n with
      | .line => { r with line := true }
      | .store => { r with store := true }
      | .completion => { r with completion := true }
      | .delivery => { r with delivery := true }
      | .missed => { r with missed := true }
    let asked (x : Notices) : Notices := { x with request := raised x.request }
    raiseAt m n s = { s with notices := s.notices.set m (asked (s.notices.get m)) } ∧
    raiseAll n s = { s with
      notices := ⟨asked s.notices.a, asked s.notices.b, asked s.notices.c, asked s.notices.d⟩ }) ∧
  (∀ (f : LineFlags → LineFlags) (s : State), latchAll f s = { s with line := { s.line with
    flags := ⟨f s.line.flags.a, f s.line.flags.b, f s.line.flags.c, f s.line.flags.d⟩ } }) ∧
  ∀ (m : Master) (s : State),
    let holds (b : BufferId) : Bool := match (s.store.buffer b).state with
      | .owned o => o = m
      | .inJob o _ => o = m
      | .delivered pending holders => pending.get m || holders.get m
      | _ => false
    let line : Byte := match s.line.state with
      | .down => 0 | .seek _ => 1 | .qualify _ _ _ => 2 | .up _ _ => 3
    let summary (number missed : Byte) : List Byte :=
      [number, line, BitVec.ofNat 8 ((List.finRange 96).filter fun b => (s.store.buffer b).damaged && holds b).length,
        BitVec.ofNat 8 (s.jobs.completions.get m).length, BitVec.ofNat 8 (s.delivery.inbound.get m).length, missed]
    (attnLow m s = true ↔ ∃ n : NoticeSource, (s.notices.get m).enable.get n = true ∧
      (s.notices.get m).request.get n = true ∧ ∀ x ∈ (s.notices.get m).active, n.number < x.number) ∧
    (Ready m 0x60 [] s →
      (attnLow m s = false → exec (.notice m) s = .next (answered m .ok (summary 0 0) s)) ∧
      ∀ n : NoticeSource, (s.notices.get m).takeable n = true →
        (∀ x : NoticeSource, (s.notices.get m).takeable x = true → n.number ≤ x.number) →
        exec (.notice m) s = .next (answered m .ok
          (summary (BitVec.ofNat 8 n.number) (if n = .missed then (s.counters.get m).missed else 0))
          { s with notices := s.notices.set m ⟨(s.notices.get m).enable,
            (s.notices.get m).request.set n false, n :: (s.notices.get m).active⟩ }))

/-- RELEASE, in every case: BAD ARG, NOT ACTIVE, or the source's active flag cleared. MASK: BAD ARG for a set bit 5, 6 or 7, or the
five enables replaced. STATS returns the nine copies and zeroes them. -/
def Obligations.ReleaseMaskStats : Prop :=
  ∀ (m : Master) (s : State),
    (∀ b : Byte, Ready m 0x61 [b] s →
      (¬(1 ≤ b.toNat ∧ b.toNat ≤ 5) → exec (.release m b) s = .next (answered m .badArg [] s)) ∧
      ∀ n : NoticeSource, n.number = b.toNat → exec (.release m b) s = .next
        (if n ∈ (s.notices.get m).active then
          answered m .ok [] { s with
            notices := s.notices.set m ⟨(s.notices.get m).enable, (s.notices.get m).request, (s.notices.get m).active.erase n⟩ }
        else answered m .notActive [] s)) ∧
    (∀ b : Byte, Ready m 0x62 [b] s → exec (.mask m b) s = .next
      (if 32 ≤ b.toNat then answered m .badArg [] s
      else answered m .ok [] { s with
        notices := s.notices.set m ⟨⟨b.getLsbD 0, b.getLsbD 1, b.getLsbD 2, b.getLsbD 3, b.getLsbD 4⟩,
          (s.notices.get m).request, (s.notices.get m).active⟩ })) ∧
    (Ready m 0x70 [] s → let k := s.counters.get m
      exec (.stats m) s = .next (answered m .ok [k.framesIn, k.missed, k.busySent, k.noBuffer, k.crcErrors, k.formatErrors,
        k.collisions, k.corrected, k.uncorrectable]
      { s with counters := s.counters.set m ⟨0, 0, 0, 0, 0, 0, 0, 0, 0⟩ }))

/-- A sync edge of the selected polarity zeroes the time base and any other edge does nothing; the time base rises by one at the end
of each microsecond and wraps to 0; neither acts during the start-up clear. -/
def Obligations.TimeBaseCounts : Prop :=
  ∀ s : State,
    (∀ edge, exec (.syncEdge edge) s = .next
      (if s.clearing = false ∧ ((s.line.settings.sync = .rising ∧ edge = .rising) ∨
        (s.line.settings.sync = .falling ∧ edge = .falling)) then { s with timeBase := 0 } else s)) ∧
    (Settled s → s.clearing = false → ∃ t, exec .timeBaseIncrement s = .next t ∧ t = { s with timeBase := t.timeBase } ∧
      t.timeBase.toNat = (s.timeBase.toNat + 1) % 2 ^ 32) ∧
    (Settled s → s.clearing = true → exec .timeBaseIncrement s = .next s)

/-- PORT RESET of a master whose leaving does not take the line down: everything the part holds for it is back at its power-on value.
Its own buffers, its jobs' and the DELIVERED buffers left with both sets empty leave use in ascending order, every other buffer and
every entry of the table that is not left empty stays without it, the attempt of its running job is cut, and the other masters' own
state stays. -/
def Obligations.PortResetClearsOneMaster : Prop :=
  ∀ (m : Master) (s : State), Ready m 0x04 [] s →
    (MasterSet.erase s.line.want m).isEmpty = false ∨ s.line.state = .down →
    ∃ t, exec (.portReset m) s = .next (answered m .ok [] t) ∧
      t = { s with
        store := { s.store with buffers := t.store.buffers, freeQueue := queueAfterReset m false s.store },
        table := tableAfterReset m s.table,
        line := { s.line with
          want := MasterSet.erase s.line.want m, flags := s.line.flags.set m ⟨false, false, false, false⟩ },
        transmitter := transmitterAfterReset m s,
        delivery := ⟨s.delivery.inbound.set m [], s.delivery.late.set m none⟩,
        jobs := { s.jobs with
          outbound := s.jobs.outbound.set m [], completions := s.jobs.completions.set m [],
          tagCounter := s.jobs.tagCounter.set m 0,
          running := if runsFor m s.jobs.running then none else s.jobs.running },
        notices := s.notices.set m ⟨⟨true, true, true, true, true⟩, ⟨false, false, false, false, false⟩, []⟩,
        counters := s.counters.set m ⟨0, 0, 0, 0, 0, 0, 0, 0, 0⟩,
        ports := s.ports.set m { s.ports.get m with settings := ⟨24, 12, true⟩ } } ∧
      (∀ b, t.store.buffer b = (s.store.buffer b).afterReset m false) ∧
      (∀ b, (t.store.buffer b).state ≠ .owned m ∧ (∀ tag, (t.store.buffer b).state ≠ .inJob m tag) ∧
        ∀ pending holders, (t.store.buffer b).state = .delivered pending holders →
          pending.get m = false ∧ holders.get m = false) ∧
      t.store.usage m = 0

/-- PORT RESET of the only master that wants a line in use: everything the part holds for it is back at its power-on value as before,
and the line goes DOWN, the reception abandoned with its buffer in the one ascending order (assumption log 11). From UP the
frame on the wire, the job's or an automatic BUSY's, is cut with no further character than the one being sent, an attempt and a BUSY
that wait are gone, the hold list is empty, another master's running job ends as R135 says, with its completion entry, its COMPLETION
request and its buffers OWNED again, and every other master has a LINE request and UP-KEPT clear. -/
def Obligations.PortResetTakesTheLineDown : Prop :=
  ∀ (m : Master) (s : State), Ready m 0x04 [] s → (MasterSet.erase s.line.want m).isEmpty = true →
    s.line.state ≠ .down →
    let isUp := s.line.state.isUp
    let lost : Option Running := if isUp && !runsFor m s.jobs.running then s.jobs.running else none
    let cleared := s.jobs.completions.set m []
    let late := s.delivery.late.set m none
    ∃ t, exec (.portReset m) s = .next (answered m .ok [] t) ∧
      t = { s with
        store := { s.store with buffers := t.store.buffers, freeQueue := queueAfterReset m true s.store },
        table := tableAfterReset m s.table,
        line := { s.line with
          state := .down, want := MasterSet.erase s.line.want m, flags := t.line.flags, idle := 0, access := 0, low := 0 },
        receiver := none,
        transmitter := if isUp then
          ⟨match s.transmitter.wire with
            | .none => .none
            | .sending f rest => .sending { f with cut := true } (rest.take 1)
            | .turnaround f left => .turnaround { f with cut := true } left, none, none⟩
        else transmitterAfterReset m s,
        delivery := ⟨s.delivery.inbound.set m [], match lost with
          | some r => r.departureLate late
          | none => late⟩,
        jobs := { s.jobs with
          outbound := s.jobs.outbound.set m [],
          completions := match lost with
            | some r => cleared.modify r.job.master (· ++ [r.departureEntry s.timeBase])
            | none => cleared,
          tagCounter := s.jobs.tagCounter.set m 0,
          running := if isUp || runsFor m s.jobs.running then none else s.jobs.running },
        holds := if isUp then [] else s.holds,
        notices := t.notices,
        counters := s.counters.set m ⟨0, 0, 0, 0, 0, 0, 0, 0, 0⟩,
        ports := s.ports.set m { s.ports.get m with settings := ⟨24, 12, true⟩ } } ∧
      (∀ b, t.store.buffer b = ((s.store.buffer b).afterReset m true).returned lost) ∧
      t.line.flags.get m = ⟨false, false, false, false⟩ ∧
      t.notices.get m = ⟨⟨true, true, true, true, true⟩, ⟨false, false, false, false, false⟩, []⟩ ∧
      (∀ n, n ≠ m →
        t.line.flags.get n = { s.line.flags.get n with upKept := (s.line.flags.get n).upKept && !isUp } ∧
        t.notices.get n = { s.notices.get n with
          request := { (s.notices.get n).request with
            line := (s.notices.get n).request.line || isUp,
            completion := (s.notices.get n).request.completion || runsFor n lost } }) ∧
      (∀ b, (t.store.buffer b).state ≠ .filling) ∧ t.store.usage m = 0

/-! ### Headline results -/

/-- Decoding and encoding agree: the bytes of a command decode to exactly the well-formed commands that those bytes spell, with
every operand at every value. -/
def Obligations.CommandBytesDecode : Prop :=
  ∀ (i : Instr) (m : Master) (code : Byte) (args : List Byte),
    decodeCommand m code args = some i ↔ (WellFormed i = true ∧ commandBytes i = some (m, code, args))

/-- The state right after reset, and the state after the start-up clear that follows it, keep every law of the part. -/
def Obligations.ResetKeepsTheLaws : Prop :=
  let laws (s : State) : Prop := StoreForm s ∧ TableLaw s ∧ SettingsLaw s ∧ LineLaw s ∧ HoldLaw s ∧ NoticeLaw s ∧
    DamageLaw s ∧ JobLaw s ∧ BufferLaw s ∧ DeliveryLaw s
  (laws State.reset ∧ ResetLaw State.reset) ∧ ∀ t, exec .startUpClearEnd State.reset = .next t → laws t

/-- Every step keeps the form of the store's bytes and upset words, the law of the damaged-word table, and the law of the address
table. -/
def Obligations.StepKeepsStoreAndTable : Prop :=
  (∀ s t : State, StoreForm s → step s = .next t → StoreForm t) ∧
  (∀ s t : State, DamageLaw s → step s = .next t → DamageLaw t) ∧
  (∀ s t : State, TableLaw s → step s = .next t → TableLaw t)

/-- Every step keeps every settings record in its ranges. Every step keeps each master's active notice sources a chain of
strictly rising priority. Every step keeps the ports of a part whose RESET# is low DESELECTED, and its start-up clear not ended. -/
def Obligations.StepKeepsSettingsAndNotices : Prop :=
  (∀ s t : State, SettingsLaw s → step s = .next t → SettingsLaw t) ∧
  (∀ s t : State, NoticeLaw s → step s = .next t → NoticeLaw t) ∧
  (∀ s t : State, ResetLaw s → step s = .next t → ResetLaw t)

/-- Every step keeps the laws of the line state, the running job and the hold list. -/
def Obligations.StepKeepsTheLineLaws : Prop :=
  ∀ s t : State, LineLaw s → HoldLaw s → step s = .next t → LineLaw t ∧ HoldLaw t

/-- Every step keeps the laws of the buffers and of the jobs together: the free queue lists exactly the FREE buffers, each once, no
master has more than eight jobs and completion entries, and an attempt that is due is that of the running job's SEND order. -/
def Obligations.StepKeepsBuffersAndJobs : Prop :=
  ∀ s t : State, LineLaw s → JobLaw s → BufferLaw s → step s = .next t → JobLaw t ∧ BufferLaw t

/-- Every step keeps the laws of the inbound queues, where the laws of buffers and jobs hold. -/
def Obligations.StepKeepsTheDeliveryLaw : Prop :=
  ∀ s t : State, LineLaw s → JobLaw s → BufferLaw s → DeliveryLaw s → step s = .next t → DeliveryLaw t
end

