-- ==== Sys2Proof/Laws/Memory.lean ====
section
/-!
SUPPORT. The bytes of the store: every memory operation keeps the canonical form, and a byte written reads back while every
other byte reads as before.
-/

namespace Sys2Proof.Machine

theorem Memory.wf_iff (mem : List Host.Cell) :
    Memory.wf mem = true ↔ (mem.Pairwise fun x y => x.1 < y.1) ∧ ∀ c ∈ mem, c.2 ≠ 0 := by
  simp [Memory.wf]

theorem Memory.wf_nil : Memory.wf [] = true := rfl

theorem reset_memory_wf : Memory.wf State.reset.store.mem = true := rfl

/-- A write lists no address but the written one and those listed before. -/
theorem Memory.mem_write {mem : List Host.Cell} {a : Nat} {v : Byte} {c : Host.Cell} (h : c ∈ Memory.write mem a v) :
    c ∈ mem ∨ (c = (a, v) ∧ v ≠ 0) := by
  induction mem with
  | nil =>
    unfold Memory.write at h
    split at h <;> simp_all
  | cons x rest ih =>
    obtain ⟨k, w⟩ := x
    unfold Memory.write at h
    split at h
    · split at h <;> simp_all
      tauto
    · split at h
      · split at h <;> simp_all
        tauto
      · rcases List.mem_cons.mp h with rfl | h
        · exact Or.inl (List.mem_cons_self ..)
        · rcases ih h with h | h
          · exact Or.inl (List.mem_cons_of_mem _ h)
          · exact Or.inr h

/-- A write keeps the canonical form. -/
theorem Memory.write_wf {mem : List Host.Cell} (h : Memory.wf mem = true) (a : Nat) (v : Byte) :
    Memory.wf (Memory.write mem a v) = true := by
  rw [Memory.wf_iff] at h ⊢
  refine ⟨?_, fun c hc => ?_⟩
  · obtain ⟨h, -⟩ := h
    induction mem with
    | nil => unfold Memory.write; split <;> simp
    | cons x rest ih =>
      obtain ⟨k, w⟩ := x
      have hr := List.pairwise_cons.mp h
      unfold Memory.write
      split
      · split
        · exact h
        · refine List.pairwise_cons.mpr ⟨fun c hc => ?_, h⟩
          rcases List.mem_cons.mp hc with rfl | hc
          · assumption
          · have := hr.1 c hc
            simp only at this ⊢
            omega
      · split
        · subst_vars
          split
          · exact hr.2
          · exact List.pairwise_cons.mpr ⟨fun c hc => hr.1 c hc, hr.2⟩
        · refine List.pairwise_cons.mpr ⟨fun c hc => ?_, ih hr.2⟩
          rcases Memory.mem_write hc with hc | ⟨rfl, -⟩
          · exact hr.1 c hc
          · simp only
            omega
  · rcases Memory.mem_write hc with hc | ⟨rfl, hv⟩
    · exact h.2 c hc
    · exact hv

theorem Memory.read_of_lt {mem : List Host.Cell} {a : Nat} (h : ∀ c ∈ mem, a < c.1) : Memory.read mem a = 0 := by
  induction mem with
  | nil => rfl
  | cons x rest ih =>
    obtain ⟨k, w⟩ := x
    have hk : a < k := h (k, w) (List.mem_cons_self ..)
    rw [Memory.read, if_neg (by omega)]
    exact ih fun c hc => h c (List.mem_cons_of_mem _ hc)

/-- What a byte reads as after a write: the written byte at the written address, and what it read before elsewhere. -/
theorem Memory.read_write {mem : List Host.Cell} (h : Memory.wf mem = true) (a : Nat) (v : Byte) (x : Nat) :
    Memory.read (Memory.write mem a v) x = if x = a then v else Memory.read mem x := by
  replace h := ((Memory.wf_iff mem).mp h).1
  induction mem with
  | nil =>
    unfold Memory.write
    split
    · subst_vars; split <;> rfl
    · simp only [Memory.read]
      split <;> split <;> simp_all
  | cons y rest ih =>
    obtain ⟨k, w⟩ := y
    have hr := List.pairwise_cons.mp h
    have ih := ih hr.2
    unfold Memory.write
    split
    · rename_i hak
      split
      · rename_i hv
        split
        · subst_vars
          refine Memory.read_of_lt fun c hc => ?_
          rcases List.mem_cons.mp hc with rfl | hc
          · assumption
          · exact lt_trans hak (hr.1 c hc)
        · rfl
      · simp only [Memory.read]
        by_cases hx : x = a
        · simp [hx]
        · rw [if_neg (fun h => hx h.symm), if_neg hx]
    · split
      · subst_vars
        split
        · subst_vars
          by_cases hx : x = k
          · subst hx
            rw [if_pos rfl]
            exact Memory.read_of_lt fun c hc => hr.1 c hc
          · rw [if_neg hx, Memory.read, if_neg (fun h => hx h.symm)]
        · by_cases hx : x = k
          · subst hx
            simp [Memory.read]
          · rw [Memory.read, if_neg (fun h => hx h.symm), if_neg hx, Memory.read, if_neg (fun h => hx h.symm)]
      · rename_i hk
        simp only [Memory.read]
        by_cases hx : k = x
        · subst hx
          rw [if_pos rfl, if_pos rfl, if_neg (fun e => hk e.symm)]
        · rw [if_neg hx, if_neg hx, ih]

theorem Memory.writeBytes_wf {mem : List Host.Cell} (h : Memory.wf mem = true) (a : Nat) (bytes : List Byte) :
    Memory.wf (Memory.writeBytes mem a bytes) = true := by
  induction bytes generalizing mem a with
  | nil => exact h
  | cons v rest ih => exact ih (Memory.write_wf h a v) (a + 1)

/-- What a byte reads as after consecutive bytes are written. -/
theorem Memory.read_writeBytes {mem : List Host.Cell} (h : Memory.wf mem = true) (a : Nat) (bytes : List Byte) (x : Nat) :
    Memory.read (Memory.writeBytes mem a bytes) x =
      if a ≤ x ∧ x < a + bytes.length then bytes.getD (x - a) 0 else Memory.read mem x := by
  induction bytes generalizing mem a with
  | nil =>
    rw [if_neg (by simp only [List.length_nil]; omega)]
    rfl
  | cons v rest ih =>
    rw [Memory.writeBytes, ih (Memory.write_wf h a v), Memory.read_write h]
    simp only [List.length_cons]
    by_cases hx : x = a
    · subst hx
      rw [if_neg (by omega), if_pos rfl, if_pos (by omega), Nat.sub_self]
      rfl
    · rw [if_neg hx]
      by_cases hin : a + 1 ≤ x ∧ x < a + 1 + rest.length
      · rw [if_pos hin, if_pos (by omega), show x - a = (x - (a + 1)) + 1 by omega]
        rfl
      · rw [if_neg hin, if_neg (by omega)]

theorem length_padWord (bytes : List Byte) : (padWord bytes).length = 8 := by simp [padWord]

theorem getD_padWord (bytes : List Byte) {i : Nat} (h : i < 8) : (padWord bytes).getD i 0 = bytes.getD i 0 := by
  simp [padWord, List.getD, h]

/-- A full-word write keeps the canonical form of the bytes. -/
theorem Store.writeWord_wf {st : Store} (h : Memory.wf st.mem = true) (w : WordNo) (bytes : List Byte) :
    Memory.wf (st.writeWord w bytes).mem = true := Memory.writeBytes_wf h _ _

/-- What a byte of the store reads as after a full-word write (R2). -/
theorem Store.read_writeWord {st : Store} (h : Memory.wf st.mem = true) (w : WordNo) (bytes : List Byte) (x : Nat) :
    Memory.read (st.writeWord w bytes).mem x =
      if 8 * w.val ≤ x ∧ x < 8 * w.val + 8 then bytes.getD (x - 8 * w.val) 0 else Memory.read st.mem x := by
  simp only [Store.writeWord]
  rw [Memory.read_writeBytes h, length_padWord]
  split
  · rename_i hx
    rw [getD_padWord _ (by omega)]
  · rfl

/-- A full-word write leaves its word clean (R2). -/
theorem Store.condition_writeWord (st : Store) (w : WordNo) (bytes : List Byte) :
    (st.writeWord w bytes).condition w = .clean := by
  have h : (st.writeWord w bytes).upsetAt w = none := by
    simp [Store.upsetAt, Store.writeWord, List.find?_eq_none]
  simp [Store.condition, h]

/-- A full-word write leaves every other word's condition as it was (R2). -/
theorem Store.condition_writeWord_of_ne (st : Store) {w v : WordNo} (hv : v ≠ w) (bytes : List Byte) :
    (st.writeWord w bytes).condition v = st.condition v := by
  have h : (st.writeWord w bytes).upsetAt v = st.upsetAt v := by
    simp only [Store.upsetAt, Store.writeWord, List.find?_filter]
    congr 1
    funext u
    by_cases hu : u.word = v
    · simp [hu, hv]
    · simp [hu]
  simp only [Store.condition, h]

/-- Writes and reads of words change no buffer record and no queue. -/
@[simp] theorem Store.writeWord_buffers (st : Store) (w : WordNo) (bytes : List Byte) :
    (st.writeWord w bytes).buffers = st.buffers := rfl

@[simp] theorem Store.writeWord_freeQueue (st : Store) (w : WordNo) (bytes : List Byte) :
    (st.writeWord w bytes).freeQueue = st.freeQueue := rfl

@[simp] theorem Store.writeWord_damagedWords (st : Store) (w : WordNo) (bytes : List Byte) :
    (st.writeWord w bytes).damagedWords = st.damagedWords := rfl

@[simp] theorem Store.writeWord_patrolIndex (st : Store) (w : WordNo) (bytes : List Byte) :
    (st.writeWord w bytes).patrolIndex = st.patrolIndex := rfl

end Sys2Proof.Machine
end

