-- ==== Sys2Proof/Laws/State.lean ====
section
/-!
SUPPORT. What each named update of the state leaves in every field, so that no proof unfolds a record update.
-/

set_option Elab.async false

namespace Sys2Proof.Machine

/-! `raiseAt` -/

@[simp] theorem raiseAt_resetLow (m : Master) (src : NoticeSource) (s : State) : (raiseAt m src s).resetLow = s.resetLow := rfl

@[simp] theorem raiseAt_clearing (m : Master) (src : NoticeSource) (s : State) : (raiseAt m src s).clearing = s.clearing := rfl

@[simp] theorem raiseAt_store (m : Master) (src : NoticeSource) (s : State) : (raiseAt m src s).store = s.store := rfl

@[simp] theorem raiseAt_table (m : Master) (src : NoticeSource) (s : State) : (raiseAt m src s).table = s.table := rfl

@[simp] theorem raiseAt_line (m : Master) (src : NoticeSource) (s : State) : (raiseAt m src s).line = s.line := rfl

@[simp] theorem raiseAt_receiver (m : Master) (src : NoticeSource) (s : State) : (raiseAt m src s).receiver = s.receiver := rfl

@[simp] theorem raiseAt_transmitter (m : Master) (src : NoticeSource) (s : State) : (raiseAt m src s).transmitter = s.transmitter := rfl

@[simp] theorem raiseAt_delivery (m : Master) (src : NoticeSource) (s : State) : (raiseAt m src s).delivery = s.delivery := rfl

@[simp] theorem raiseAt_jobs (m : Master) (src : NoticeSource) (s : State) : (raiseAt m src s).jobs = s.jobs := rfl

@[simp] theorem raiseAt_holds (m : Master) (src : NoticeSource) (s : State) : (raiseAt m src s).holds = s.holds := rfl

@[simp] theorem raiseAt_notices (m : Master) (src : NoticeSource) (s : State) : (raiseAt m src s).notices = s.notices.modify m fun n => n.raise src := rfl

@[simp] theorem raiseAt_counters (m : Master) (src : NoticeSource) (s : State) : (raiseAt m src s).counters = s.counters := rfl

@[simp] theorem raiseAt_ports (m : Master) (src : NoticeSource) (s : State) : (raiseAt m src s).ports = s.ports := rfl

@[simp] theorem raiseAt_timeBase (m : Master) (src : NoticeSource) (s : State) : (raiseAt m src s).timeBase = s.timeBase := rfl

@[simp] theorem raiseAt_fresh (m : Master) (src : NoticeSource) (s : State) : (raiseAt m src s).fresh = s.fresh := rfl

@[simp] theorem raiseAt_pending (m : Master) (src : NoticeSource) (s : State) : (raiseAt m src s).pending = s.pending := rfl

/-! `raiseIn` -/

@[simp] theorem raiseIn_resetLow (ms : MasterSet) (src : NoticeSource) (s : State) : (raiseIn ms src s).resetLow = s.resetLow := rfl

@[simp] theorem raiseIn_clearing (ms : MasterSet) (src : NoticeSource) (s : State) : (raiseIn ms src s).clearing = s.clearing := rfl

@[simp] theorem raiseIn_store (ms : MasterSet) (src : NoticeSource) (s : State) : (raiseIn ms src s).store = s.store := rfl

@[simp] theorem raiseIn_table (ms : MasterSet) (src : NoticeSource) (s : State) : (raiseIn ms src s).table = s.table := rfl

@[simp] theorem raiseIn_line (ms : MasterSet) (src : NoticeSource) (s : State) : (raiseIn ms src s).line = s.line := rfl

@[simp] theorem raiseIn_receiver (ms : MasterSet) (src : NoticeSource) (s : State) : (raiseIn ms src s).receiver = s.receiver := rfl

@[simp] theorem raiseIn_transmitter (ms : MasterSet) (src : NoticeSource) (s : State) : (raiseIn ms src s).transmitter = s.transmitter := rfl

@[simp] theorem raiseIn_delivery (ms : MasterSet) (src : NoticeSource) (s : State) : (raiseIn ms src s).delivery = s.delivery := rfl

@[simp] theorem raiseIn_jobs (ms : MasterSet) (src : NoticeSource) (s : State) : (raiseIn ms src s).jobs = s.jobs := rfl

@[simp] theorem raiseIn_holds (ms : MasterSet) (src : NoticeSource) (s : State) : (raiseIn ms src s).holds = s.holds := rfl

@[simp] theorem raiseIn_notices (ms : MasterSet) (src : NoticeSource) (s : State) : (raiseIn ms src s).notices = PerMaster.tabulate fun m => if ms.get m then (s.notices.get m).raise src else s.notices.get m := rfl

@[simp] theorem raiseIn_counters (ms : MasterSet) (src : NoticeSource) (s : State) : (raiseIn ms src s).counters = s.counters := rfl

@[simp] theorem raiseIn_ports (ms : MasterSet) (src : NoticeSource) (s : State) : (raiseIn ms src s).ports = s.ports := rfl

@[simp] theorem raiseIn_timeBase (ms : MasterSet) (src : NoticeSource) (s : State) : (raiseIn ms src s).timeBase = s.timeBase := rfl

@[simp] theorem raiseIn_fresh (ms : MasterSet) (src : NoticeSource) (s : State) : (raiseIn ms src s).fresh = s.fresh := rfl

@[simp] theorem raiseIn_pending (ms : MasterSet) (src : NoticeSource) (s : State) : (raiseIn ms src s).pending = s.pending := rfl

/-! `raiseAll` -/

@[simp] theorem raiseAll_resetLow (src : NoticeSource) (s : State) : (raiseAll src s).resetLow = s.resetLow := rfl

@[simp] theorem raiseAll_clearing (src : NoticeSource) (s : State) : (raiseAll src s).clearing = s.clearing := rfl

@[simp] theorem raiseAll_store (src : NoticeSource) (s : State) : (raiseAll src s).store = s.store := rfl

@[simp] theorem raiseAll_table (src : NoticeSource) (s : State) : (raiseAll src s).table = s.table := rfl

@[simp] theorem raiseAll_line (src : NoticeSource) (s : State) : (raiseAll src s).line = s.line := rfl

@[simp] theorem raiseAll_receiver (src : NoticeSource) (s : State) : (raiseAll src s).receiver = s.receiver := rfl

@[simp] theorem raiseAll_transmitter (src : NoticeSource) (s : State) : (raiseAll src s).transmitter = s.transmitter := rfl

@[simp] theorem raiseAll_delivery (src : NoticeSource) (s : State) : (raiseAll src s).delivery = s.delivery := rfl

@[simp] theorem raiseAll_jobs (src : NoticeSource) (s : State) : (raiseAll src s).jobs = s.jobs := rfl

@[simp] theorem raiseAll_holds (src : NoticeSource) (s : State) : (raiseAll src s).holds = s.holds := rfl

@[simp] theorem raiseAll_notices (src : NoticeSource) (s : State) : (raiseAll src s).notices = s.notices.map fun n => n.raise src := rfl

@[simp] theorem raiseAll_counters (src : NoticeSource) (s : State) : (raiseAll src s).counters = s.counters := rfl

@[simp] theorem raiseAll_ports (src : NoticeSource) (s : State) : (raiseAll src s).ports = s.ports := rfl

@[simp] theorem raiseAll_timeBase (src : NoticeSource) (s : State) : (raiseAll src s).timeBase = s.timeBase := rfl

@[simp] theorem raiseAll_fresh (src : NoticeSource) (s : State) : (raiseAll src s).fresh = s.fresh := rfl

@[simp] theorem raiseAll_pending (src : NoticeSource) (s : State) : (raiseAll src s).pending = s.pending := rfl

/-! `countAt` -/

@[simp] theorem countAt_resetLow (m : Master) (n : CounterName) (s : State) : (countAt m n s).resetLow = s.resetLow := rfl

@[simp] theorem countAt_clearing (m : Master) (n : CounterName) (s : State) : (countAt m n s).clearing = s.clearing := rfl

@[simp] theorem countAt_store (m : Master) (n : CounterName) (s : State) : (countAt m n s).store = s.store := rfl

@[simp] theorem countAt_table (m : Master) (n : CounterName) (s : State) : (countAt m n s).table = s.table := rfl

@[simp] theorem countAt_line (m : Master) (n : CounterName) (s : State) : (countAt m n s).line = s.line := rfl

@[simp] theorem countAt_receiver (m : Master) (n : CounterName) (s : State) : (countAt m n s).receiver = s.receiver := rfl

@[simp] theorem countAt_transmitter (m : Master) (n : CounterName) (s : State) : (countAt m n s).transmitter = s.transmitter := rfl

@[simp] theorem countAt_delivery (m : Master) (n : CounterName) (s : State) : (countAt m n s).delivery = s.delivery := rfl

@[simp] theorem countAt_jobs (m : Master) (n : CounterName) (s : State) : (countAt m n s).jobs = s.jobs := rfl

@[simp] theorem countAt_holds (m : Master) (n : CounterName) (s : State) : (countAt m n s).holds = s.holds := rfl

@[simp] theorem countAt_notices (m : Master) (n : CounterName) (s : State) : (countAt m n s).notices = s.notices := rfl

@[simp] theorem countAt_counters (m : Master) (n : CounterName) (s : State) : (countAt m n s).counters = s.counters.modify m fun k => k.up n := rfl

@[simp] theorem countAt_ports (m : Master) (n : CounterName) (s : State) : (countAt m n s).ports = s.ports := rfl

@[simp] theorem countAt_timeBase (m : Master) (n : CounterName) (s : State) : (countAt m n s).timeBase = s.timeBase := rfl

@[simp] theorem countAt_fresh (m : Master) (n : CounterName) (s : State) : (countAt m n s).fresh = s.fresh := rfl

@[simp] theorem countAt_pending (m : Master) (n : CounterName) (s : State) : (countAt m n s).pending = s.pending := rfl

/-! `countIn` -/

@[simp] theorem countIn_resetLow (ms : MasterSet) (n : CounterName) (s : State) : (countIn ms n s).resetLow = s.resetLow := rfl

@[simp] theorem countIn_clearing (ms : MasterSet) (n : CounterName) (s : State) : (countIn ms n s).clearing = s.clearing := rfl

@[simp] theorem countIn_store (ms : MasterSet) (n : CounterName) (s : State) : (countIn ms n s).store = s.store := rfl

@[simp] theorem countIn_table (ms : MasterSet) (n : CounterName) (s : State) : (countIn ms n s).table = s.table := rfl

@[simp] theorem countIn_line (ms : MasterSet) (n : CounterName) (s : State) : (countIn ms n s).line = s.line := rfl

@[simp] theorem countIn_receiver (ms : MasterSet) (n : CounterName) (s : State) : (countIn ms n s).receiver = s.receiver := rfl

@[simp] theorem countIn_transmitter (ms : MasterSet) (n : CounterName) (s : State) : (countIn ms n s).transmitter = s.transmitter := rfl

@[simp] theorem countIn_delivery (ms : MasterSet) (n : CounterName) (s : State) : (countIn ms n s).delivery = s.delivery := rfl

@[simp] theorem countIn_jobs (ms : MasterSet) (n : CounterName) (s : State) : (countIn ms n s).jobs = s.jobs := rfl

@[simp] theorem countIn_holds (ms : MasterSet) (n : CounterName) (s : State) : (countIn ms n s).holds = s.holds := rfl

@[simp] theorem countIn_notices (ms : MasterSet) (n : CounterName) (s : State) : (countIn ms n s).notices = s.notices := rfl

@[simp] theorem countIn_counters (ms : MasterSet) (n : CounterName) (s : State) : (countIn ms n s).counters = PerMaster.tabulate fun m => if ms.get m then (s.counters.get m).up n else s.counters.get m := rfl

@[simp] theorem countIn_ports (ms : MasterSet) (n : CounterName) (s : State) : (countIn ms n s).ports = s.ports := rfl

@[simp] theorem countIn_timeBase (ms : MasterSet) (n : CounterName) (s : State) : (countIn ms n s).timeBase = s.timeBase := rfl

@[simp] theorem countIn_fresh (ms : MasterSet) (n : CounterName) (s : State) : (countIn ms n s).fresh = s.fresh := rfl

@[simp] theorem countIn_pending (ms : MasterSet) (n : CounterName) (s : State) : (countIn ms n s).pending = s.pending := rfl

/-! `countAll` -/

@[simp] theorem countAll_resetLow (n : CounterName) (s : State) : (countAll n s).resetLow = s.resetLow := rfl

@[simp] theorem countAll_clearing (n : CounterName) (s : State) : (countAll n s).clearing = s.clearing := rfl

@[simp] theorem countAll_store (n : CounterName) (s : State) : (countAll n s).store = s.store := rfl

@[simp] theorem countAll_table (n : CounterName) (s : State) : (countAll n s).table = s.table := rfl

@[simp] theorem countAll_line (n : CounterName) (s : State) : (countAll n s).line = s.line := rfl

@[simp] theorem countAll_receiver (n : CounterName) (s : State) : (countAll n s).receiver = s.receiver := rfl

@[simp] theorem countAll_transmitter (n : CounterName) (s : State) : (countAll n s).transmitter = s.transmitter := rfl

@[simp] theorem countAll_delivery (n : CounterName) (s : State) : (countAll n s).delivery = s.delivery := rfl

@[simp] theorem countAll_jobs (n : CounterName) (s : State) : (countAll n s).jobs = s.jobs := rfl

@[simp] theorem countAll_holds (n : CounterName) (s : State) : (countAll n s).holds = s.holds := rfl

@[simp] theorem countAll_notices (n : CounterName) (s : State) : (countAll n s).notices = s.notices := rfl

@[simp] theorem countAll_counters (n : CounterName) (s : State) : (countAll n s).counters = s.counters.map fun k => k.up n := rfl

@[simp] theorem countAll_ports (n : CounterName) (s : State) : (countAll n s).ports = s.ports := rfl

@[simp] theorem countAll_timeBase (n : CounterName) (s : State) : (countAll n s).timeBase = s.timeBase := rfl

@[simp] theorem countAll_fresh (n : CounterName) (s : State) : (countAll n s).fresh = s.fresh := rfl

@[simp] theorem countAll_pending (n : CounterName) (s : State) : (countAll n s).pending = s.pending := rfl

/-! `latchAll` -/

@[simp] theorem latchAll_resetLow (f : LineFlags → LineFlags) (s : State) : (latchAll f s).resetLow = s.resetLow := rfl

@[simp] theorem latchAll_clearing (f : LineFlags → LineFlags) (s : State) : (latchAll f s).clearing = s.clearing := rfl

@[simp] theorem latchAll_store (f : LineFlags → LineFlags) (s : State) : (latchAll f s).store = s.store := rfl

@[simp] theorem latchAll_table (f : LineFlags → LineFlags) (s : State) : (latchAll f s).table = s.table := rfl

@[simp] theorem latchAll_line (f : LineFlags → LineFlags) (s : State) : (latchAll f s).line = { s.line with flags := s.line.flags.map f } := rfl

@[simp] theorem latchAll_receiver (f : LineFlags → LineFlags) (s : State) : (latchAll f s).receiver = s.receiver := rfl

@[simp] theorem latchAll_transmitter (f : LineFlags → LineFlags) (s : State) : (latchAll f s).transmitter = s.transmitter := rfl

@[simp] theorem latchAll_delivery (f : LineFlags → LineFlags) (s : State) : (latchAll f s).delivery = s.delivery := rfl

@[simp] theorem latchAll_jobs (f : LineFlags → LineFlags) (s : State) : (latchAll f s).jobs = s.jobs := rfl

@[simp] theorem latchAll_holds (f : LineFlags → LineFlags) (s : State) : (latchAll f s).holds = s.holds := rfl

@[simp] theorem latchAll_notices (f : LineFlags → LineFlags) (s : State) : (latchAll f s).notices = s.notices := rfl

@[simp] theorem latchAll_counters (f : LineFlags → LineFlags) (s : State) : (latchAll f s).counters = s.counters := rfl

@[simp] theorem latchAll_ports (f : LineFlags → LineFlags) (s : State) : (latchAll f s).ports = s.ports := rfl

@[simp] theorem latchAll_timeBase (f : LineFlags → LineFlags) (s : State) : (latchAll f s).timeBase = s.timeBase := rfl

@[simp] theorem latchAll_fresh (f : LineFlags → LineFlags) (s : State) : (latchAll f s).fresh = s.fresh := rfl

@[simp] theorem latchAll_pending (f : LineFlags → LineFlags) (s : State) : (latchAll f s).pending = s.pending := rfl

/-! `setTransaction` -/

@[simp] theorem setTransaction_resetLow (m : Master) (t : Transaction) (s : State) : (setTransaction m t s).resetLow = s.resetLow := rfl

@[simp] theorem setTransaction_clearing (m : Master) (t : Transaction) (s : State) : (setTransaction m t s).clearing = s.clearing := rfl

@[simp] theorem setTransaction_store (m : Master) (t : Transaction) (s : State) : (setTransaction m t s).store = s.store := rfl

@[simp] theorem setTransaction_table (m : Master) (t : Transaction) (s : State) : (setTransaction m t s).table = s.table := rfl

@[simp] theorem setTransaction_line (m : Master) (t : Transaction) (s : State) : (setTransaction m t s).line = s.line := rfl

@[simp] theorem setTransaction_receiver (m : Master) (t : Transaction) (s : State) : (setTransaction m t s).receiver = s.receiver := rfl

@[simp] theorem setTransaction_transmitter (m : Master) (t : Transaction) (s : State) : (setTransaction m t s).transmitter = s.transmitter := rfl

@[simp] theorem setTransaction_delivery (m : Master) (t : Transaction) (s : State) : (setTransaction m t s).delivery = s.delivery := rfl

@[simp] theorem setTransaction_jobs (m : Master) (t : Transaction) (s : State) : (setTransaction m t s).jobs = s.jobs := rfl

@[simp] theorem setTransaction_holds (m : Master) (t : Transaction) (s : State) : (setTransaction m t s).holds = s.holds := rfl

@[simp] theorem setTransaction_notices (m : Master) (t : Transaction) (s : State) : (setTransaction m t s).notices = s.notices := rfl

@[simp] theorem setTransaction_counters (m : Master) (t : Transaction) (s : State) : (setTransaction m t s).counters = s.counters := rfl

@[simp] theorem setTransaction_ports (m : Master) (t : Transaction) (s : State) : (setTransaction m t s).ports = s.ports.modify m fun p => { p with transaction := t } := rfl

@[simp] theorem setTransaction_timeBase (m : Master) (t : Transaction) (s : State) : (setTransaction m t s).timeBase = s.timeBase := rfl

@[simp] theorem setTransaction_fresh (m : Master) (t : Transaction) (s : State) : (setTransaction m t s).fresh = s.fresh := rfl

@[simp] theorem setTransaction_pending (m : Master) (t : Transaction) (s : State) : (setTransaction m t s).pending = s.pending := rfl

/-! `setPortSettings` -/

@[simp] theorem setPortSettings_resetLow (m : Master) (r : PortSettings) (s : State) : (setPortSettings m r s).resetLow = s.resetLow := rfl

@[simp] theorem setPortSettings_clearing (m : Master) (r : PortSettings) (s : State) : (setPortSettings m r s).clearing = s.clearing := rfl

@[simp] theorem setPortSettings_store (m : Master) (r : PortSettings) (s : State) : (setPortSettings m r s).store = s.store := rfl

@[simp] theorem setPortSettings_table (m : Master) (r : PortSettings) (s : State) : (setPortSettings m r s).table = s.table := rfl

@[simp] theorem setPortSettings_line (m : Master) (r : PortSettings) (s : State) : (setPortSettings m r s).line = s.line := rfl

@[simp] theorem setPortSettings_receiver (m : Master) (r : PortSettings) (s : State) : (setPortSettings m r s).receiver = s.receiver := rfl

@[simp] theorem setPortSettings_transmitter (m : Master) (r : PortSettings) (s : State) : (setPortSettings m r s).transmitter = s.transmitter := rfl

@[simp] theorem setPortSettings_delivery (m : Master) (r : PortSettings) (s : State) : (setPortSettings m r s).delivery = s.delivery := rfl

@[simp] theorem setPortSettings_jobs (m : Master) (r : PortSettings) (s : State) : (setPortSettings m r s).jobs = s.jobs := rfl

@[simp] theorem setPortSettings_holds (m : Master) (r : PortSettings) (s : State) : (setPortSettings m r s).holds = s.holds := rfl

@[simp] theorem setPortSettings_notices (m : Master) (r : PortSettings) (s : State) : (setPortSettings m r s).notices = s.notices := rfl

@[simp] theorem setPortSettings_counters (m : Master) (r : PortSettings) (s : State) : (setPortSettings m r s).counters = s.counters := rfl

@[simp] theorem setPortSettings_ports (m : Master) (r : PortSettings) (s : State) : (setPortSettings m r s).ports = s.ports.modify m fun p => { p with settings := r } := rfl

@[simp] theorem setPortSettings_timeBase (m : Master) (r : PortSettings) (s : State) : (setPortSettings m r s).timeBase = s.timeBase := rfl

@[simp] theorem setPortSettings_fresh (m : Master) (r : PortSettings) (s : State) : (setPortSettings m r s).fresh = s.fresh := rfl

@[simp] theorem setPortSettings_pending (m : Master) (r : PortSettings) (s : State) : (setPortSettings m r s).pending = s.pending := rfl

/-! `setTable` -/

@[simp] theorem setTable_resetLow (t : List TableEntry) (s : State) : (setTable t s).resetLow = s.resetLow := rfl

@[simp] theorem setTable_clearing (t : List TableEntry) (s : State) : (setTable t s).clearing = s.clearing := rfl

@[simp] theorem setTable_store (t : List TableEntry) (s : State) : (setTable t s).store = s.store := rfl

@[simp] theorem setTable_table (t : List TableEntry) (s : State) : (setTable t s).table = t := rfl

@[simp] theorem setTable_line (t : List TableEntry) (s : State) : (setTable t s).line = s.line := rfl

@[simp] theorem setTable_receiver (t : List TableEntry) (s : State) : (setTable t s).receiver = s.receiver := rfl

@[simp] theorem setTable_transmitter (t : List TableEntry) (s : State) : (setTable t s).transmitter = s.transmitter := rfl

@[simp] theorem setTable_delivery (t : List TableEntry) (s : State) : (setTable t s).delivery = s.delivery := rfl

@[simp] theorem setTable_jobs (t : List TableEntry) (s : State) : (setTable t s).jobs = s.jobs := rfl

@[simp] theorem setTable_holds (t : List TableEntry) (s : State) : (setTable t s).holds = s.holds := rfl

@[simp] theorem setTable_notices (t : List TableEntry) (s : State) : (setTable t s).notices = s.notices := rfl

@[simp] theorem setTable_counters (t : List TableEntry) (s : State) : (setTable t s).counters = s.counters := rfl

@[simp] theorem setTable_ports (t : List TableEntry) (s : State) : (setTable t s).ports = s.ports := rfl

@[simp] theorem setTable_timeBase (t : List TableEntry) (s : State) : (setTable t s).timeBase = s.timeBase := rfl

@[simp] theorem setTable_fresh (t : List TableEntry) (s : State) : (setTable t s).fresh = s.fresh := rfl

@[simp] theorem setTable_pending (t : List TableEntry) (s : State) : (setTable t s).pending = s.pending := rfl

/-! `setRunning` -/

@[simp] theorem setRunning_resetLow (r : Option Running) (s : State) : (setRunning r s).resetLow = s.resetLow := rfl

@[simp] theorem setRunning_clearing (r : Option Running) (s : State) : (setRunning r s).clearing = s.clearing := rfl

@[simp] theorem setRunning_store (r : Option Running) (s : State) : (setRunning r s).store = s.store := rfl

@[simp] theorem setRunning_table (r : Option Running) (s : State) : (setRunning r s).table = s.table := rfl

@[simp] theorem setRunning_line (r : Option Running) (s : State) : (setRunning r s).line = s.line := rfl

@[simp] theorem setRunning_receiver (r : Option Running) (s : State) : (setRunning r s).receiver = s.receiver := rfl

@[simp] theorem setRunning_transmitter (r : Option Running) (s : State) : (setRunning r s).transmitter = s.transmitter := rfl

@[simp] theorem setRunning_delivery (r : Option Running) (s : State) : (setRunning r s).delivery = s.delivery := rfl

@[simp] theorem setRunning_jobs (r : Option Running) (s : State) : (setRunning r s).jobs = { s.jobs with running := r } := rfl

@[simp] theorem setRunning_holds (r : Option Running) (s : State) : (setRunning r s).holds = s.holds := rfl

@[simp] theorem setRunning_notices (r : Option Running) (s : State) : (setRunning r s).notices = s.notices := rfl

@[simp] theorem setRunning_counters (r : Option Running) (s : State) : (setRunning r s).counters = s.counters := rfl

@[simp] theorem setRunning_ports (r : Option Running) (s : State) : (setRunning r s).ports = s.ports := rfl

@[simp] theorem setRunning_timeBase (r : Option Running) (s : State) : (setRunning r s).timeBase = s.timeBase := rfl

@[simp] theorem setRunning_fresh (r : Option Running) (s : State) : (setRunning r s).fresh = s.fresh := rfl

@[simp] theorem setRunning_pending (r : Option Running) (s : State) : (setRunning r s).pending = s.pending := rfl

/-! `setLineState` -/

@[simp] theorem setLineState_resetLow (l : LineState) (s : State) : (setLineState l s).resetLow = s.resetLow := rfl

@[simp] theorem setLineState_clearing (l : LineState) (s : State) : (setLineState l s).clearing = s.clearing := rfl

@[simp] theorem setLineState_store (l : LineState) (s : State) : (setLineState l s).store = s.store := rfl

@[simp] theorem setLineState_table (l : LineState) (s : State) : (setLineState l s).table = s.table := rfl

@[simp] theorem setLineState_line (l : LineState) (s : State) : (setLineState l s).line = { s.line with state := l } := rfl

@[simp] theorem setLineState_receiver (l : LineState) (s : State) : (setLineState l s).receiver = s.receiver := rfl

@[simp] theorem setLineState_transmitter (l : LineState) (s : State) : (setLineState l s).transmitter = s.transmitter := rfl

@[simp] theorem setLineState_delivery (l : LineState) (s : State) : (setLineState l s).delivery = s.delivery := rfl

@[simp] theorem setLineState_jobs (l : LineState) (s : State) : (setLineState l s).jobs = s.jobs := rfl

@[simp] theorem setLineState_holds (l : LineState) (s : State) : (setLineState l s).holds = s.holds := rfl

@[simp] theorem setLineState_notices (l : LineState) (s : State) : (setLineState l s).notices = s.notices := rfl

@[simp] theorem setLineState_counters (l : LineState) (s : State) : (setLineState l s).counters = s.counters := rfl

@[simp] theorem setLineState_ports (l : LineState) (s : State) : (setLineState l s).ports = s.ports := rfl

@[simp] theorem setLineState_timeBase (l : LineState) (s : State) : (setLineState l s).timeBase = s.timeBase := rfl

@[simp] theorem setLineState_fresh (l : LineState) (s : State) : (setLineState l s).fresh = s.fresh := rfl

@[simp] theorem setLineState_pending (l : LineState) (s : State) : (setLineState l s).pending = s.pending := rfl

/-! `setWire` -/

@[simp] theorem setWire_resetLow (w : Wire) (s : State) : (setWire w s).resetLow = s.resetLow := rfl

@[simp] theorem setWire_clearing (w : Wire) (s : State) : (setWire w s).clearing = s.clearing := rfl

@[simp] theorem setWire_store (w : Wire) (s : State) : (setWire w s).store = s.store := rfl

@[simp] theorem setWire_table (w : Wire) (s : State) : (setWire w s).table = s.table := rfl

@[simp] theorem setWire_line (w : Wire) (s : State) : (setWire w s).line = s.line := rfl

@[simp] theorem setWire_receiver (w : Wire) (s : State) : (setWire w s).receiver = s.receiver := rfl

@[simp] theorem setWire_transmitter (w : Wire) (s : State) : (setWire w s).transmitter = { s.transmitter with wire := w } := rfl

@[simp] theorem setWire_delivery (w : Wire) (s : State) : (setWire w s).delivery = s.delivery := rfl

@[simp] theorem setWire_jobs (w : Wire) (s : State) : (setWire w s).jobs = s.jobs := rfl

@[simp] theorem setWire_holds (w : Wire) (s : State) : (setWire w s).holds = s.holds := rfl

@[simp] theorem setWire_notices (w : Wire) (s : State) : (setWire w s).notices = s.notices := rfl

@[simp] theorem setWire_counters (w : Wire) (s : State) : (setWire w s).counters = s.counters := rfl

@[simp] theorem setWire_ports (w : Wire) (s : State) : (setWire w s).ports = s.ports := rfl

@[simp] theorem setWire_timeBase (w : Wire) (s : State) : (setWire w s).timeBase = s.timeBase := rfl

@[simp] theorem setWire_fresh (w : Wire) (s : State) : (setWire w s).fresh = s.fresh := rfl

@[simp] theorem setWire_pending (w : Wire) (s : State) : (setWire w s).pending = s.pending := rfl

/-! `dropWaiting` -/

@[simp] theorem dropWaiting_resetLow (s : State) : (dropWaiting s).resetLow = s.resetLow := rfl

@[simp] theorem dropWaiting_clearing (s : State) : (dropWaiting s).clearing = s.clearing := rfl

@[simp] theorem dropWaiting_store (s : State) : (dropWaiting s).store = s.store := rfl

@[simp] theorem dropWaiting_table (s : State) : (dropWaiting s).table = s.table := rfl

@[simp] theorem dropWaiting_line (s : State) : (dropWaiting s).line = s.line := rfl

@[simp] theorem dropWaiting_receiver (s : State) : (dropWaiting s).receiver = s.receiver := rfl

@[simp] theorem dropWaiting_transmitter (s : State) : (dropWaiting s).transmitter = { s.transmitter with waiting := none } := rfl

@[simp] theorem dropWaiting_delivery (s : State) : (dropWaiting s).delivery = s.delivery := rfl

@[simp] theorem dropWaiting_jobs (s : State) : (dropWaiting s).jobs = s.jobs := rfl

@[simp] theorem dropWaiting_holds (s : State) : (dropWaiting s).holds = s.holds := rfl

@[simp] theorem dropWaiting_notices (s : State) : (dropWaiting s).notices = s.notices := rfl

@[simp] theorem dropWaiting_counters (s : State) : (dropWaiting s).counters = s.counters := rfl

@[simp] theorem dropWaiting_ports (s : State) : (dropWaiting s).ports = s.ports := rfl

@[simp] theorem dropWaiting_timeBase (s : State) : (dropWaiting s).timeBase = s.timeBase := rfl

@[simp] theorem dropWaiting_fresh (s : State) : (dropWaiting s).fresh = s.fresh := rfl

@[simp] theorem dropWaiting_pending (s : State) : (dropWaiting s).pending = s.pending := rfl

/-! `cutAll` -/

@[simp] theorem cutAll_resetLow (s : State) : (cutAll s).resetLow = s.resetLow := rfl

@[simp] theorem cutAll_clearing (s : State) : (cutAll s).clearing = s.clearing := rfl

@[simp] theorem cutAll_store (s : State) : (cutAll s).store = s.store := rfl

@[simp] theorem cutAll_table (s : State) : (cutAll s).table = s.table := rfl

@[simp] theorem cutAll_line (s : State) : (cutAll s).line = s.line := rfl

@[simp] theorem cutAll_receiver (s : State) : (cutAll s).receiver = s.receiver := rfl

@[simp] theorem cutAll_transmitter (s : State) : (cutAll s).transmitter = ⟨s.transmitter.wire.cut, none, none⟩ := rfl

@[simp] theorem cutAll_delivery (s : State) : (cutAll s).delivery = s.delivery := rfl

@[simp] theorem cutAll_jobs (s : State) : (cutAll s).jobs = s.jobs := rfl

@[simp] theorem cutAll_holds (s : State) : (cutAll s).holds = s.holds := rfl

@[simp] theorem cutAll_notices (s : State) : (cutAll s).notices = s.notices := rfl

@[simp] theorem cutAll_counters (s : State) : (cutAll s).counters = s.counters := rfl

@[simp] theorem cutAll_ports (s : State) : (cutAll s).ports = s.ports := rfl

@[simp] theorem cutAll_timeBase (s : State) : (cutAll s).timeBase = s.timeBase := rfl

@[simp] theorem cutAll_fresh (s : State) : (cutAll s).fresh = s.fresh := rfl

@[simp] theorem cutAll_pending (s : State) : (cutAll s).pending = s.pending := rfl

/-! `cutJob` -/

@[simp] theorem cutJob_resetLow (s : State) : (cutJob s).resetLow = s.resetLow := rfl

@[simp] theorem cutJob_clearing (s : State) : (cutJob s).clearing = s.clearing := rfl

@[simp] theorem cutJob_store (s : State) : (cutJob s).store = s.store := rfl

@[simp] theorem cutJob_table (s : State) : (cutJob s).table = s.table := rfl

@[simp] theorem cutJob_line (s : State) : (cutJob s).line = s.line := rfl

@[simp] theorem cutJob_receiver (s : State) : (cutJob s).receiver = s.receiver := rfl

@[simp] theorem cutJob_delivery (s : State) : (cutJob s).delivery = s.delivery := rfl

@[simp] theorem cutJob_jobs (s : State) : (cutJob s).jobs = s.jobs := rfl

@[simp] theorem cutJob_holds (s : State) : (cutJob s).holds = s.holds := rfl

@[simp] theorem cutJob_notices (s : State) : (cutJob s).notices = s.notices := rfl

@[simp] theorem cutJob_counters (s : State) : (cutJob s).counters = s.counters := rfl

@[simp] theorem cutJob_ports (s : State) : (cutJob s).ports = s.ports := rfl

@[simp] theorem cutJob_timeBase (s : State) : (cutJob s).timeBase = s.timeBase := rfl

@[simp] theorem cutJob_fresh (s : State) : (cutJob s).fresh = s.fresh := rfl

@[simp] theorem cutJob_pending (s : State) : (cutJob s).pending = s.pending := rfl

/-! `lineTime` -/

@[simp] theorem lineTime_resetLow (n : Nat) (s : State) : (lineTime n s).resetLow = s.resetLow := rfl

@[simp] theorem lineTime_clearing (n : Nat) (s : State) : (lineTime n s).clearing = s.clearing := rfl

@[simp] theorem lineTime_store (n : Nat) (s : State) : (lineTime n s).store = s.store := rfl

@[simp] theorem lineTime_table (n : Nat) (s : State) : (lineTime n s).table = s.table := rfl

@[simp] theorem lineTime_line (n : Nat) (s : State) : (lineTime n s).line = { s.line with state := s.line.state.after n (silenceTimeout s.line.settings), idle := s.line.idleAfter n, access := s.line.accessAfter n, low := s.line.low - n } := rfl

@[simp] theorem lineTime_receiver (n : Nat) (s : State) : (lineTime n s).receiver = s.receiver := rfl

@[simp] theorem lineTime_transmitter (n : Nat) (s : State) : (lineTime n s).transmitter = { s.transmitter with wire := s.transmitter.wire.after n } := rfl

@[simp] theorem lineTime_delivery (n : Nat) (s : State) : (lineTime n s).delivery = s.delivery := rfl

@[simp] theorem lineTime_jobs (n : Nat) (s : State) : (lineTime n s).jobs = { s.jobs with running := s.jobs.running.map fun r => { r with tenure := r.tenure - n, doing := r.doing.after n } } := rfl

@[simp] theorem lineTime_holds (n : Nat) (s : State) : (lineTime n s).holds = s.holds.map fun e => { e with remaining := e.remaining - n } := rfl

@[simp] theorem lineTime_notices (n : Nat) (s : State) : (lineTime n s).notices = s.notices := rfl

@[simp] theorem lineTime_counters (n : Nat) (s : State) : (lineTime n s).counters = s.counters := rfl

@[simp] theorem lineTime_ports (n : Nat) (s : State) : (lineTime n s).ports = s.ports := rfl

@[simp] theorem lineTime_timeBase (n : Nat) (s : State) : (lineTime n s).timeBase = s.timeBase := rfl

@[simp] theorem lineTime_fresh (n : Nat) (s : State) : (lineTime n s).fresh = s.fresh := rfl

@[simp] theorem lineTime_pending (n : Nat) (s : State) : (lineTime n s).pending = s.pending := rfl

/-! `correctableFinding` -/

@[simp] theorem correctableFinding_resetLow (w : WordNo) (s : State) : (correctableFinding w s).resetLow = s.resetLow := rfl

@[simp] theorem correctableFinding_clearing (w : WordNo) (s : State) : (correctableFinding w s).clearing = s.clearing := rfl

@[simp] theorem correctableFinding_store (w : WordNo) (s : State) : (correctableFinding w s).store = s.store.clearUpset w := rfl

@[simp] theorem correctableFinding_table (w : WordNo) (s : State) : (correctableFinding w s).table = s.table := rfl

@[simp] theorem correctableFinding_line (w : WordNo) (s : State) : (correctableFinding w s).line = s.line := rfl

@[simp] theorem correctableFinding_receiver (w : WordNo) (s : State) : (correctableFinding w s).receiver = s.receiver := rfl

@[simp] theorem correctableFinding_transmitter (w : WordNo) (s : State) : (correctableFinding w s).transmitter = s.transmitter := rfl

@[simp] theorem correctableFinding_delivery (w : WordNo) (s : State) : (correctableFinding w s).delivery = s.delivery := rfl

@[simp] theorem correctableFinding_jobs (w : WordNo) (s : State) : (correctableFinding w s).jobs = s.jobs := rfl

@[simp] theorem correctableFinding_holds (w : WordNo) (s : State) : (correctableFinding w s).holds = s.holds := rfl

@[simp] theorem correctableFinding_notices (w : WordNo) (s : State) : (correctableFinding w s).notices = s.notices := rfl

@[simp] theorem correctableFinding_counters (w : WordNo) (s : State) : (correctableFinding w s).counters = s.counters.map fun k => k.up .corrected := rfl

@[simp] theorem correctableFinding_ports (w : WordNo) (s : State) : (correctableFinding w s).ports = s.ports := rfl

@[simp] theorem correctableFinding_timeBase (w : WordNo) (s : State) : (correctableFinding w s).timeBase = s.timeBase := rfl

@[simp] theorem correctableFinding_fresh (w : WordNo) (s : State) : (correctableFinding w s).fresh = s.fresh := rfl

@[simp] theorem correctableFinding_pending (w : WordNo) (s : State) : (correctableFinding w s).pending = s.pending := rfl

/-! `missedAt` -/

@[simp] theorem missedAt_resetLow (ms : MasterSet) (s : State) : (missedAt ms s).resetLow = s.resetLow := rfl

@[simp] theorem missedAt_clearing (ms : MasterSet) (s : State) : (missedAt ms s).clearing = s.clearing := rfl

@[simp] theorem missedAt_store (ms : MasterSet) (s : State) : (missedAt ms s).store = s.store := rfl

@[simp] theorem missedAt_table (ms : MasterSet) (s : State) : (missedAt ms s).table = s.table := rfl

@[simp] theorem missedAt_line (ms : MasterSet) (s : State) : (missedAt ms s).line = s.line := rfl

@[simp] theorem missedAt_receiver (ms : MasterSet) (s : State) : (missedAt ms s).receiver = s.receiver := rfl

@[simp] theorem missedAt_transmitter (ms : MasterSet) (s : State) : (missedAt ms s).transmitter = s.transmitter := rfl

@[simp] theorem missedAt_delivery (ms : MasterSet) (s : State) : (missedAt ms s).delivery = s.delivery := rfl

@[simp] theorem missedAt_jobs (ms : MasterSet) (s : State) : (missedAt ms s).jobs = s.jobs := rfl

@[simp] theorem missedAt_holds (ms : MasterSet) (s : State) : (missedAt ms s).holds = s.holds := rfl

@[simp] theorem missedAt_ports (ms : MasterSet) (s : State) : (missedAt ms s).ports = s.ports := rfl

@[simp] theorem missedAt_timeBase (ms : MasterSet) (s : State) : (missedAt ms s).timeBase = s.timeBase := rfl

@[simp] theorem missedAt_fresh (ms : MasterSet) (s : State) : (missedAt ms s).fresh = s.fresh := rfl

@[simp] theorem missedAt_pending (ms : MasterSet) (s : State) : (missedAt ms s).pending = s.pending := rfl

/-! `noBufferAt` -/

@[simp] theorem noBufferAt_resetLow (ms : MasterSet) (s : State) : (noBufferAt ms s).resetLow = s.resetLow := rfl

@[simp] theorem noBufferAt_clearing (ms : MasterSet) (s : State) : (noBufferAt ms s).clearing = s.clearing := rfl

@[simp] theorem noBufferAt_store (ms : MasterSet) (s : State) : (noBufferAt ms s).store = s.store := rfl

@[simp] theorem noBufferAt_table (ms : MasterSet) (s : State) : (noBufferAt ms s).table = s.table := rfl

@[simp] theorem noBufferAt_line (ms : MasterSet) (s : State) : (noBufferAt ms s).line = s.line := rfl

@[simp] theorem noBufferAt_receiver (ms : MasterSet) (s : State) : (noBufferAt ms s).receiver = s.receiver := rfl

@[simp] theorem noBufferAt_transmitter (ms : MasterSet) (s : State) : (noBufferAt ms s).transmitter = s.transmitter := rfl

@[simp] theorem noBufferAt_delivery (ms : MasterSet) (s : State) : (noBufferAt ms s).delivery = s.delivery := rfl

@[simp] theorem noBufferAt_jobs (ms : MasterSet) (s : State) : (noBufferAt ms s).jobs = s.jobs := rfl

@[simp] theorem noBufferAt_holds (ms : MasterSet) (s : State) : (noBufferAt ms s).holds = s.holds := rfl

@[simp] theorem noBufferAt_ports (ms : MasterSet) (s : State) : (noBufferAt ms s).ports = s.ports := rfl

@[simp] theorem noBufferAt_timeBase (ms : MasterSet) (s : State) : (noBufferAt ms s).timeBase = s.timeBase := rfl

@[simp] theorem noBufferAt_fresh (ms : MasterSet) (s : State) : (noBufferAt ms s).fresh = s.fresh := rfl

@[simp] theorem noBufferAt_pending (ms : MasterSet) (s : State) : (noBufferAt ms s).pending = s.pending := rfl

/-! `placeBusy` -/

@[simp] theorem placeBusy_resetLow (h : Header) (s : State) : (placeBusy h s).resetLow = s.resetLow := rfl

@[simp] theorem placeBusy_clearing (h : Header) (s : State) : (placeBusy h s).clearing = s.clearing := rfl

@[simp] theorem placeBusy_store (h : Header) (s : State) : (placeBusy h s).store = s.store := rfl

@[simp] theorem placeBusy_table (h : Header) (s : State) : (placeBusy h s).table = s.table := rfl

@[simp] theorem placeBusy_line (h : Header) (s : State) : (placeBusy h s).line = s.line := rfl

@[simp] theorem placeBusy_receiver (h : Header) (s : State) : (placeBusy h s).receiver = s.receiver := rfl

@[simp] theorem placeBusy_transmitter (h : Header) (s : State) : (placeBusy h s).transmitter = { s.transmitter with slot := some ⟨h.source, h.destination, h.sequence⟩ } := rfl

@[simp] theorem placeBusy_delivery (h : Header) (s : State) : (placeBusy h s).delivery = s.delivery := rfl

@[simp] theorem placeBusy_jobs (h : Header) (s : State) : (placeBusy h s).jobs = s.jobs := rfl

@[simp] theorem placeBusy_holds (h : Header) (s : State) : (placeBusy h s).holds = s.holds := rfl

@[simp] theorem placeBusy_notices (h : Header) (s : State) : (placeBusy h s).notices = s.notices := rfl

@[simp] theorem placeBusy_counters (h : Header) (s : State) : (placeBusy h s).counters = s.counters := rfl

@[simp] theorem placeBusy_ports (h : Header) (s : State) : (placeBusy h s).ports = s.ports := rfl

@[simp] theorem placeBusy_timeBase (h : Header) (s : State) : (placeBusy h s).timeBase = s.timeBase := rfl

@[simp] theorem placeBusy_fresh (h : Header) (s : State) : (placeBusy h s).fresh = s.fresh := rfl

@[simp] theorem placeBusy_pending (h : Header) (s : State) : (placeBusy h s).pending = s.pending := rfl

/-! `complete` -/

@[simp] theorem complete_resetLow (m : Master) (c : Completion) (s : State) : (complete m c s).resetLow = s.resetLow := rfl

@[simp] theorem complete_clearing (m : Master) (c : Completion) (s : State) : (complete m c s).clearing = s.clearing := rfl

@[simp] theorem complete_store (m : Master) (c : Completion) (s : State) : (complete m c s).store = s.store := rfl

@[simp] theorem complete_table (m : Master) (c : Completion) (s : State) : (complete m c s).table = s.table := rfl

@[simp] theorem complete_line (m : Master) (c : Completion) (s : State) : (complete m c s).line = s.line := rfl

@[simp] theorem complete_receiver (m : Master) (c : Completion) (s : State) : (complete m c s).receiver = s.receiver := rfl

@[simp] theorem complete_transmitter (m : Master) (c : Completion) (s : State) : (complete m c s).transmitter = s.transmitter := rfl

@[simp] theorem complete_delivery (m : Master) (c : Completion) (s : State) : (complete m c s).delivery = s.delivery := rfl

@[simp] theorem complete_jobs (m : Master) (c : Completion) (s : State) : (complete m c s).jobs = { s.jobs with completions := s.jobs.completions.modify m (· ++ [c]) } := rfl

@[simp] theorem complete_holds (m : Master) (c : Completion) (s : State) : (complete m c s).holds = s.holds := rfl

@[simp] theorem complete_notices (m : Master) (c : Completion) (s : State) : (complete m c s).notices = s.notices.modify m fun n => n.raise .completion := rfl

@[simp] theorem complete_counters (m : Master) (c : Completion) (s : State) : (complete m c s).counters = s.counters := rfl

@[simp] theorem complete_ports (m : Master) (c : Completion) (s : State) : (complete m c s).ports = s.ports := rfl

@[simp] theorem complete_timeBase (m : Master) (c : Completion) (s : State) : (complete m c s).timeBase = s.timeBase := rfl

@[simp] theorem complete_fresh (m : Master) (c : Completion) (s : State) : (complete m c s).fresh = s.fresh := rfl

@[simp] theorem complete_pending (m : Master) (c : Completion) (s : State) : (complete m c s).pending = s.pending := rfl

/-! `leaveUse` -/

@[simp] theorem leaveUse_resetLow (b : Option BufferId) (s : State) : (leaveUse b s).resetLow = s.resetLow := by cases b <;> rfl

@[simp] theorem leaveUse_clearing (b : Option BufferId) (s : State) : (leaveUse b s).clearing = s.clearing := by cases b <;> rfl

@[simp] theorem leaveUse_table (b : Option BufferId) (s : State) : (leaveUse b s).table = s.table := by cases b <;> rfl

@[simp] theorem leaveUse_line (b : Option BufferId) (s : State) : (leaveUse b s).line = s.line := by cases b <;> rfl

@[simp] theorem leaveUse_receiver (b : Option BufferId) (s : State) : (leaveUse b s).receiver = s.receiver := by cases b <;> rfl

@[simp] theorem leaveUse_transmitter (b : Option BufferId) (s : State) : (leaveUse b s).transmitter = s.transmitter := by cases b <;> rfl

@[simp] theorem leaveUse_delivery (b : Option BufferId) (s : State) : (leaveUse b s).delivery = s.delivery := by cases b <;> rfl

@[simp] theorem leaveUse_jobs (b : Option BufferId) (s : State) : (leaveUse b s).jobs = s.jobs := by cases b <;> rfl

@[simp] theorem leaveUse_holds (b : Option BufferId) (s : State) : (leaveUse b s).holds = s.holds := by cases b <;> rfl

@[simp] theorem leaveUse_notices (b : Option BufferId) (s : State) : (leaveUse b s).notices = s.notices := by cases b <;> rfl

@[simp] theorem leaveUse_counters (b : Option BufferId) (s : State) : (leaveUse b s).counters = s.counters := by cases b <;> rfl

@[simp] theorem leaveUse_ports (b : Option BufferId) (s : State) : (leaveUse b s).ports = s.ports := by cases b <;> rfl

@[simp] theorem leaveUse_timeBase (b : Option BufferId) (s : State) : (leaveUse b s).timeBase = s.timeBase := by cases b <;> rfl

@[simp] theorem leaveUse_fresh (b : Option BufferId) (s : State) : (leaveUse b s).fresh = s.fresh := by cases b <;> rfl

@[simp] theorem leaveUse_pending (b : Option BufferId) (s : State) : (leaveUse b s).pending = s.pending := by cases b <;> rfl

/-! `restartIdle` -/

@[simp] theorem restartIdle_resetLow (low : Nat) (s : State) : (restartIdle low s).resetLow = s.resetLow := by unfold restartIdle; split <;> rfl

@[simp] theorem restartIdle_clearing (low : Nat) (s : State) : (restartIdle low s).clearing = s.clearing := by unfold restartIdle; split <;> rfl

@[simp] theorem restartIdle_store (low : Nat) (s : State) : (restartIdle low s).store = s.store := by unfold restartIdle; split <;> rfl

@[simp] theorem restartIdle_table (low : Nat) (s : State) : (restartIdle low s).table = s.table := by unfold restartIdle; split <;> rfl

@[simp] theorem restartIdle_receiver (low : Nat) (s : State) : (restartIdle low s).receiver = s.receiver := by unfold restartIdle; split <;> rfl

@[simp] theorem restartIdle_transmitter (low : Nat) (s : State) : (restartIdle low s).transmitter = s.transmitter := by unfold restartIdle; split <;> rfl

@[simp] theorem restartIdle_delivery (low : Nat) (s : State) : (restartIdle low s).delivery = s.delivery := by unfold restartIdle; split <;> rfl

@[simp] theorem restartIdle_jobs (low : Nat) (s : State) : (restartIdle low s).jobs = s.jobs := by unfold restartIdle; split <;> rfl

@[simp] theorem restartIdle_holds (low : Nat) (s : State) : (restartIdle low s).holds = s.holds := by unfold restartIdle; split <;> rfl

@[simp] theorem restartIdle_notices (low : Nat) (s : State) : (restartIdle low s).notices = s.notices := by unfold restartIdle; split <;> rfl

@[simp] theorem restartIdle_counters (low : Nat) (s : State) : (restartIdle low s).counters = s.counters := by unfold restartIdle; split <;> rfl

@[simp] theorem restartIdle_ports (low : Nat) (s : State) : (restartIdle low s).ports = s.ports := by unfold restartIdle; split <;> rfl

@[simp] theorem restartIdle_timeBase (low : Nat) (s : State) : (restartIdle low s).timeBase = s.timeBase := by unfold restartIdle; split <;> rfl

@[simp] theorem restartIdle_fresh (low : Nat) (s : State) : (restartIdle low s).fresh = s.fresh := by unfold restartIdle; split <;> rfl

@[simp] theorem restartIdle_pending (low : Nat) (s : State) : (restartIdle low s).pending = s.pending := by unfold restartIdle; split <;> rfl

/-! `reportCharacter` -/

@[simp] theorem reportCharacter_resetLow (s : State) : (reportCharacter s).resetLow = s.resetLow := by unfold reportCharacter; split <;> rfl

@[simp] theorem reportCharacter_clearing (s : State) : (reportCharacter s).clearing = s.clearing := by unfold reportCharacter; split <;> rfl

@[simp] theorem reportCharacter_store (s : State) : (reportCharacter s).store = s.store := by unfold reportCharacter; split <;> rfl

@[simp] theorem reportCharacter_table (s : State) : (reportCharacter s).table = s.table := by unfold reportCharacter; split <;> rfl

@[simp] theorem reportCharacter_receiver (s : State) : (reportCharacter s).receiver = s.receiver := by unfold reportCharacter; split <;> rfl

@[simp] theorem reportCharacter_transmitter (s : State) : (reportCharacter s).transmitter = s.transmitter := by unfold reportCharacter; split <;> rfl

@[simp] theorem reportCharacter_delivery (s : State) : (reportCharacter s).delivery = s.delivery := by unfold reportCharacter; split <;> rfl

@[simp] theorem reportCharacter_jobs (s : State) : (reportCharacter s).jobs = s.jobs := by unfold reportCharacter; split <;> rfl

@[simp] theorem reportCharacter_holds (s : State) : (reportCharacter s).holds = s.holds := by unfold reportCharacter; split <;> rfl

@[simp] theorem reportCharacter_notices (s : State) : (reportCharacter s).notices = s.notices := by unfold reportCharacter; split <;> rfl

@[simp] theorem reportCharacter_counters (s : State) : (reportCharacter s).counters = s.counters := by unfold reportCharacter; split <;> rfl

@[simp] theorem reportCharacter_ports (s : State) : (reportCharacter s).ports = s.ports := by unfold reportCharacter; split <;> rfl

@[simp] theorem reportCharacter_timeBase (s : State) : (reportCharacter s).timeBase = s.timeBase := by unfold reportCharacter; split <;> rfl

@[simp] theorem reportCharacter_fresh (s : State) : (reportCharacter s).fresh = s.fresh := by unfold reportCharacter; split <;> rfl

@[simp] theorem reportCharacter_pending (s : State) : (reportCharacter s).pending = s.pending := by unfold reportCharacter; split <;> rfl

/-! `enterUp` -/

@[simp] theorem enterUp_resetLow (code : RateCode) (s : State) : (enterUp code s).resetLow = s.resetLow := rfl

@[simp] theorem enterUp_clearing (code : RateCode) (s : State) : (enterUp code s).clearing = s.clearing := rfl

@[simp] theorem enterUp_store (code : RateCode) (s : State) : (enterUp code s).store = s.store := rfl

@[simp] theorem enterUp_table (code : RateCode) (s : State) : (enterUp code s).table = s.table := rfl

@[simp] theorem enterUp_line (code : RateCode) (s : State) : (enterUp code s).line = { s.line with learned := code, state := .up 0 0 } := rfl

@[simp] theorem enterUp_receiver (code : RateCode) (s : State) : (enterUp code s).receiver = s.receiver := rfl

@[simp] theorem enterUp_transmitter (code : RateCode) (s : State) : (enterUp code s).transmitter = s.transmitter := rfl

@[simp] theorem enterUp_delivery (code : RateCode) (s : State) : (enterUp code s).delivery = s.delivery := rfl

@[simp] theorem enterUp_jobs (code : RateCode) (s : State) : (enterUp code s).jobs = s.jobs := rfl

@[simp] theorem enterUp_holds (code : RateCode) (s : State) : (enterUp code s).holds = s.holds := rfl

@[simp] theorem enterUp_notices (code : RateCode) (s : State) : (enterUp code s).notices = s.notices.map fun n => n.raise .line := rfl

@[simp] theorem enterUp_counters (code : RateCode) (s : State) : (enterUp code s).counters = s.counters := rfl

@[simp] theorem enterUp_ports (code : RateCode) (s : State) : (enterUp code s).ports = s.ports := rfl

@[simp] theorem enterUp_timeBase (code : RateCode) (s : State) : (enterUp code s).timeBase = s.timeBase := rfl

@[simp] theorem enterUp_fresh (code : RateCode) (s : State) : (enterUp code s).fresh = s.fresh := rfl

@[simp] theorem enterUp_pending (code : RateCode) (s : State) : (enterUp code s).pending = s.pending := rfl

/-! `offerDamaged` -/

@[simp] theorem offerDamaged_resetLow (w : WordNo) (s : State) : (offerDamaged w s).resetLow = s.resetLow := by unfold offerDamaged; (repeat' split) <;> rfl

@[simp] theorem offerDamaged_clearing (w : WordNo) (s : State) : (offerDamaged w s).clearing = s.clearing := by unfold offerDamaged; (repeat' split) <;> rfl

@[simp] theorem offerDamaged_table (w : WordNo) (s : State) : (offerDamaged w s).table = s.table := by unfold offerDamaged; (repeat' split) <;> rfl

@[simp] theorem offerDamaged_receiver (w : WordNo) (s : State) : (offerDamaged w s).receiver = s.receiver := by unfold offerDamaged; (repeat' split) <;> rfl

@[simp] theorem offerDamaged_transmitter (w : WordNo) (s : State) : (offerDamaged w s).transmitter = s.transmitter := by unfold offerDamaged; (repeat' split) <;> rfl

@[simp] theorem offerDamaged_delivery (w : WordNo) (s : State) : (offerDamaged w s).delivery = s.delivery := by unfold offerDamaged; (repeat' split) <;> rfl

@[simp] theorem offerDamaged_jobs (w : WordNo) (s : State) : (offerDamaged w s).jobs = s.jobs := by unfold offerDamaged; (repeat' split) <;> rfl

@[simp] theorem offerDamaged_holds (w : WordNo) (s : State) : (offerDamaged w s).holds = s.holds := by unfold offerDamaged; (repeat' split) <;> rfl

@[simp] theorem offerDamaged_counters (w : WordNo) (s : State) : (offerDamaged w s).counters = s.counters := by unfold offerDamaged; (repeat' split) <;> rfl

@[simp] theorem offerDamaged_ports (w : WordNo) (s : State) : (offerDamaged w s).ports = s.ports := by unfold offerDamaged; (repeat' split) <;> rfl

@[simp] theorem offerDamaged_timeBase (w : WordNo) (s : State) : (offerDamaged w s).timeBase = s.timeBase := by unfold offerDamaged; (repeat' split) <;> rfl

@[simp] theorem offerDamaged_fresh (w : WordNo) (s : State) : (offerDamaged w s).fresh = s.fresh := by unfold offerDamaged; (repeat' split) <;> rfl

@[simp] theorem offerDamaged_pending (w : WordNo) (s : State) : (offerDamaged w s).pending = s.pending := by unfold offerDamaged; (repeat' split) <;> rfl

end Sys2Proof.Machine
end

