-- ==== Sys2Proof/Laws/Ops.lean ====
section
/-!
SUPPORT. What each shared operation can do, said once: per-master fields, buffer records, reads through correction, how a port
takes a command, and how a job ends.
-/

namespace Sys2Proof

/-! ### One thing of each kind per master -/

namespace PerMaster

variable {α β : Type}

@[simp] theorem get_set_self (p : PerMaster α) (m : Master) (v : α) : (p.set m v).get m = v := by cases m <;> rfl

theorem get_set_of_ne (p : PerMaster α) {m n : Master} (h : n ≠ m) (v : α) : (p.set m v).get n = p.get n := by
  cases m <;> cases n <;> first | rfl | exact absurd rfl h

@[simp] theorem get_modify_self (p : PerMaster α) (m : Master) (f : α → α) : (p.modify m f).get m = f (p.get m) :=
  get_set_self ..

theorem get_modify_of_ne (p : PerMaster α) {m n : Master} (h : n ≠ m) (f : α → α) : (p.modify m f).get n = p.get n :=
  get_set_of_ne _ h _

@[simp] theorem get_tabulate (f : Master → α) (m : Master) : (tabulate f).get m = f m := by cases m <;> rfl

@[simp] theorem get_map (f : α → β) (p : PerMaster α) (m : Master) : (p.map f).get m = f (p.get m) := by cases m <;> rfl

@[simp] theorem get_replicate (v : α) (m : Master) : (replicate v).get m = v := by cases m <;> rfl

theorem eq_of_get {p q : PerMaster α} (h : ∀ m, p.get m = q.get m) : p = q := by
  obtain ⟨a, b, c, d⟩ := p
  obtain ⟨a', b', c', d'⟩ := q
  have ha := h .a
  have hb := h .b
  have hc := h .c
  have hd := h .d
  simp only [get] at ha hb hc hd
  subst ha hb hc hd
  rfl

end PerMaster

theorem MasterSet.get_erase (ms : MasterSet) (m n : Master) : (MasterSet.erase ms m).get n = (ms.get n && n ≠ m) := by
  by_cases h : n = m
  · subst h; simp [MasterSet.erase]
  · simp [MasterSet.erase, PerMaster.get_set_of_ne _ h, h]

theorem MasterSet.get_insert (ms : MasterSet) (m n : Master) :
    (MasterSet.insert ms m).get n = (ms.get n || n = m) := by
  by_cases h : n = m
  · subst h; simp [MasterSet.insert]
  · simp [MasterSet.insert, PerMaster.get_set_of_ne _ h, h]

theorem MasterSet.isEmpty_iff (ms : MasterSet) : MasterSet.isEmpty ms = true ↔ ∀ m, ms.get m = false := by
  obtain ⟨a, b, c, d⟩ := ms
  constructor
  · intro h m
    simp only [MasterSet.isEmpty, Bool.not_eq_true', Bool.or_eq_false_iff] at h
    cases m <;> simp_all [PerMaster.get]
  · intro h
    have ha := h .a
    have hb := h .b
    have hc := h .c
    have hd := h .d
    simp only [PerMaster.get] at ha hb hc hd
    simp [MasterSet.isEmpty, ha, hb, hc, hd]

theorem Master.mem_all (m : Master) : m ∈ Master.all := by cases m <;> decide

namespace Machine

/-! ### Buffer records -/

@[simp] theorem Store.buffer_setBuffer_self (st : Store) (b : BufferId) (r : BufferRecord) :
    (st.setBuffer b r).buffer b = r := by simp [Store.buffer, Store.setBuffer]

theorem Store.buffer_setBuffer_of_ne (st : Store) {b c : BufferId} (h : c ≠ b) (r : BufferRecord) :
    (st.setBuffer b r).buffer c = st.buffer c := by
  have h : b.val ≠ c.val := fun e => h (Fin.ext e.symm)
  simp [Store.buffer, Store.setBuffer, h]

@[simp] theorem Store.buffer_setState_self (st : Store) (b : BufferId) (v : BufferState) :
    (st.setState b v).buffer b = ⟨v, (st.buffer b).damaged⟩ := Store.buffer_setBuffer_self ..

theorem Store.buffer_setState_of_ne (st : Store) {b c : BufferId} (h : c ≠ b) (v : BufferState) :
    (st.setState b v).buffer c = st.buffer c := Store.buffer_setBuffer_of_ne _ h _

/-- A buffer that leaves use is FREE at the free tail, or QUARANTINED if it is damaged (R9). -/
theorem Store.leaveUse_eq (st : Store) (b : BufferId) :
    st.leaveUse b =
      if (st.buffer b).damaged then st.setState b .quarantined
      else { st.setState b .free with freeQueue := st.freeQueue ++ [b] } := rfl

theorem Store.leaveUse_buffer_of_ne (st : Store) {b c : BufferId} (h : c ≠ b) :
    (st.leaveUse b).buffer c = st.buffer c := by
  rw [Store.leaveUse_eq]
  split
  · exact Store.buffer_setState_of_ne _ h _
  · exact Store.buffer_setState_of_ne _ h _

@[simp] theorem Store.leaveUse_mem (st : Store) (b : BufferId) : (st.leaveUse b).mem = st.mem := by
  rw [Store.leaveUse_eq]; split <;> rfl

@[simp] theorem Store.leaveUse_upsets (st : Store) (b : BufferId) : (st.leaveUse b).upsets = st.upsets := by
  rw [Store.leaveUse_eq]; split <;> rfl

@[simp] theorem Store.leaveUse_damagedWords (st : Store) (b : BufferId) :
    (st.leaveUse b).damagedWords = st.damagedWords := by
  rw [Store.leaveUse_eq]; split <;> rfl

@[simp] theorem Store.leaveUse_patrolIndex (st : Store) (b : BufferId) :
    (st.leaveUse b).patrolIndex = st.patrolIndex := by
  rw [Store.leaveUse_eq]; split <;> rfl

theorem bufferOf_wordOf (b : BufferId) (k : Nat) : bufferOf (wordOf b k) = b := by
  apply Fin.ext
  simp only [bufferOf, wordOf]
  omega

/-! ### Reads through correction -/

/-- A read of a clean word returns its data and changes nothing (R3). -/
theorem readWord_clean {w : WordNo} {s : State} (h : s.store.condition w = .clean) :
    readWord w s = (s.store.written w, s) := by
  unfold readWord; rw [h]

/-- A read of a single-upset word returns the data as written and makes a correctable finding (R3, R20). -/
theorem readWord_single {w : WordNo} {s : State} (h : s.store.condition w = .singleUpset) :
    readWord w s = (s.store.written w, correctableFinding w s) := by
  unfold readWord; rw [h]

/-- A read of a double-upset word returns the data as they stand and makes an uncorrectable finding (R3, R21, R22). -/
theorem readWord_double {w : WordNo} {s : State} (h : s.store.condition w = .doubleUpset) :
    readWord w s = (s.store.standing w, uncorrectableFinding w s) := by
  unfold readWord; rw [h]

theorem Store.length_written (st : Store) (w : WordNo) : (st.written w).length = 8 := by simp [Store.written]

theorem Store.length_standing (st : Store) (w : WordNo) : (st.standing w).length = 8 := by
  unfold Store.standing
  split <;> simp [Store.written]

theorem length_readWord (w : WordNo) (s : State) : (readWord w s).1.length = 8 := by
  unfold readWord
  split
  · exact Store.length_written ..
  · exact Store.length_written ..
  · exact Store.length_standing ..

/-- The fields that no read of the store reaches. -/
def SameBesideStore (s t : State) : Prop :=
  t.resetLow = s.resetLow ∧ t.clearing = s.clearing ∧ t.table = s.table ∧ t.receiver = s.receiver ∧ t.transmitter = s.transmitter ∧
    t.delivery = s.delivery ∧ t.jobs = s.jobs ∧ t.holds = s.holds ∧ t.ports = s.ports ∧ t.timeBase = s.timeBase ∧
    t.fresh = s.fresh ∧ t.pending = s.pending ∧ t.line.state = s.line.state ∧ t.line.want = s.line.want ∧
    t.line.settings = s.line.settings ∧ t.line.learned = s.line.learned ∧ t.line.idle = s.line.idle ∧
    t.line.access = s.line.access ∧ t.line.low = s.line.low

theorem SameBesideStore.refl (s : State) : SameBesideStore s s := by simp [SameBesideStore]

theorem SameBesideStore.trans {s t u : State} (h : SameBesideStore s t) (k : SameBesideStore t u) : SameBesideStore s u := by
  unfold SameBesideStore at *
  simp_all

theorem offerDamaged_sameBesideStore (w : WordNo) (s : State) : SameBesideStore s (offerDamaged w s) := by
  unfold offerDamaged
  (repeat' split) <;> simp [SameBesideStore]

theorem uncorrectableFinding_sameBesideStore (w : WordNo) (s : State) : SameBesideStore s (uncorrectableFinding w s) := by
  unfold uncorrectableFinding
  simp only
  split
  · simp [SameBesideStore]
  · refine SameBesideStore.trans (offerDamaged_sameBesideStore w s) ?_
    simp only [SameBesideStore, countAll_resetLow, raiseIn_resetLow, countAll_clearing, countAll_table, countAll_receiver, countAll_transmitter,
      countAll_delivery, countAll_jobs, countAll_holds, countAll_ports, countAll_timeBase, countAll_fresh, countAll_pending,
      countAll_line, raiseIn_clearing, raiseIn_table, raiseIn_receiver, raiseIn_transmitter, raiseIn_delivery, raiseIn_jobs,
      raiseIn_holds, raiseIn_ports, raiseIn_timeBase, raiseIn_fresh, raiseIn_pending, raiseIn_line]
    unfold offerDamaged
    (repeat' split) <;> simp_all

/-- A read through correction reaches the store, the counters, the notices and the latched flags only (R3, R20 to R23). -/
theorem readWord_sameBesideStore (w : WordNo) (s : State) : SameBesideStore s (readWord w s).2 := by
  unfold readWord
  split
  · exact SameBesideStore.refl s
  · simp [SameBesideStore]
  · exact uncorrectableFinding_sameBesideStore w s

theorem readWords_sameBesideStore (ws : List WordNo) (s : State) : SameBesideStore s (readWords ws s).2 := by
  induction ws generalizing s with
  | nil => exact SameBesideStore.refl s
  | cons w rest ih => exact SameBesideStore.trans (readWord_sameBesideStore w s) (ih _)

/-- Reads of clean words change nothing (R3). -/
theorem readWords_clean {ws : List WordNo} {s : State} (h : ∀ w ∈ ws, s.store.condition w = .clean) :
    readWords ws s = (ws.flatMap s.store.written, s) := by
  induction ws with
  | nil => rfl
  | cons w rest ih =>
    have hw := readWord_clean (h w (List.mem_cons_self ..))
    have hr := ih fun v hv => h v (List.mem_cons_of_mem _ hv)
    simp only [readWords, hw, hr, List.flatMap_cons]

/-! ### How an attempt that is due begins -/

theorem takeAttempt_of_settled {s : State} (h : Settled s) : takeAttempt s = s := by
  unfold takeAttempt
  cases hr : s.jobs.running with
  | none => rfl
  | some r =>
    cases hd : r.doing with
    | due b k => exact absurd hd (h r hr b k)
    | _ => simp only [hd]

theorem takeAttempt_of_due {s : State} {r : Running} {b : BufferId} {h : Header} (hr : s.jobs.running = some r)
    (hd : r.doing = .due b h) :
    takeAttempt s = beginAttempt { r with doing := .send } b h (setRunning (some { r with doing := .send }) s) := by
  simp only [takeAttempt, hr, hd]

/-- A state is settled once no job is RUNNING, or its order in progress is no SEND before its first attempt. -/
theorem settled_of_none {s : State} (h : s.jobs.running = none) : Settled s := fun r hr => by rw [h] at hr; cases hr

theorem settled_of_doing {s : State} {r : Running} (hr : s.jobs.running = some r) (hd : ∀ b h, r.doing ≠ .due b h) : Settled s :=
  fun q hq => by rw [hr] at hq; cases hq; exact hd

/-! ### How a port takes a command -/

/-- Every command row is one `commandStep` with the row's bytes and effect. -/
theorem exec_command {i : Instr} {m : Master} {code : Byte} {args : List Byte} {effect : State → Reply}
    (hb : commandBytes i = some (m, code, args)) (he : effectOf i = some effect) (s : State) :
    exec i s = .next (commandStep m code args effect s) := by
  cases i <;> simp only [commandBytes, effectOf, Option.some.injEq, Prod.mk.injEq, reduceCtorEq] at hb he <;>
    (obtain ⟨rfl, rfl, rfl⟩ := hb; subst he; rfl)

/-- A command taken on a port that is ready for it: its effect, and its answer (R163, R164). -/
theorem commandStep_of_ready {m : Master} {code : Byte} {args : List Byte} {s : State} (h : Ready m code args s)
    (effect : State → Reply) :
    commandStep m code args effect s = answered m (effect s).status (effect s).results (effect s).state := by
  simp only [commandStep, h.2.1, if_true, takeCommand, h.1, Bool.false_eq_true, if_false, answered, answerBytes,
    takeAttempt_of_settled h.2.2]

/-- A command on a port that does not await its bytes does not arise (assumption log 5). -/
theorem commandStep_of_not_awaits {m : Master} {code : Byte} {args : List Byte} {s : State}
    (h : awaits (s.ports.get m) code args = false) (effect : State → Reply) : commandStep m code args effect s = s := by
  simp only [commandStep, h, Bool.false_eq_true, if_false]

/-- A command during the start-up clear is answered NOT READY with no effect (R167). -/
theorem commandStep_of_clearing {m : Master} {code : Byte} {args : List Byte} {s : State}
    (h : awaits (s.ports.get m) code args = true) (hc : s.clearing = true) (effect : State → Reply) :
    commandStep m code args effect s = answered m .notReady [] s := by
  simp only [commandStep, h, if_true, takeCommand, hc, answered, answerBytes]

/-! ### How a job ends -/

theorem endJob_of_running {s : State} {r : Running} (h : s.jobs.running = some r) (outcome : JobOutcome)
    (failing : Option Nat) :
    endJob outcome failing s =
      complete r.job.master ⟨r.job.tag, outcome, failing, r.job.steps, r.job.lastAwait, r.job.reply, s.timeBase⟩
        (setRunning none { s with store := s.store.returnJob r.job.master r.job.tag }) := by
  unfold endJob; rw [h]

theorem endJob_of_none {s : State} (h : s.jobs.running = none) (outcome : JobOutcome) (failing : Option Nat) :
    endJob outcome failing s = s := by
  unfold endJob; rw [h]

/-- No job is RUNNING once a job has ended (R128). -/
theorem endJob_running (outcome : JobOutcome) (failing : Option Nat) (s : State) :
    (endJob outcome failing s).jobs.running = none := by
  unfold endJob
  split
  · assumption
  · rfl

/-- Every buffer IN-JOB of the job is OWNED by its master afterwards, and no other buffer changes (R6, R128). -/
theorem Store.buffer_returnJob (st : Store) (m : Master) (tag : Byte) (b : BufferId) :
    (st.returnJob m tag).buffer b =
      if (st.buffer b).state = .inJob m tag then ⟨.owned m, (st.buffer b).damaged⟩ else st.buffer b := by
  unfold Store.buffer Store.returnJob
  exact Vector.getElem_map (xs := st.buffers) (fun r : BufferRecord =>
    if r.state = .inJob m tag then (⟨.owned m, r.damaged⟩ : BufferRecord) else r) b.isLt

end Machine

end Sys2Proof
end

