-- ==== Sys2Proof/Laws/Delivery.lean ====
section
/-!
SUPPORT. What the shared operations of the delivery unit can do, said once: fan-out (R101, R102), a frame lost for want of a buffer
(R103), and delivery to a target set; and the facts about address classes and kind bytes on which the delivery decision rests.
-/

set_option Elab.async false

namespace Sys2Proof

theorem MasterSet.get_singleton (m n : Master) : (MasterSet.singleton m).get n = decide (n = m) := by
  cases m <;> cases n <;> rfl

namespace Machine

/-- An address that is no unicast address and not 0x00 is a group address or 0xFF (R29). -/
theorem isGroup_or_isBroadcast (a : Byte) : (isGroup a || isBroadcast a) = decide (0xE0 ≤ a.toNat) := by
  revert a; decide +kernel

/-- Only a unicast address has an owner (R30, R40). -/
theorem isUnicast_of_ownerOf {table : List TableEntry} {a : Byte} {m : Master} (h : ownerOf table a = some m) :
    isUnicast a = true := by
  unfold ownerOf at h
  split at h
  · assumption
  · cases h

/-- The kind bytes (R46). -/
theorem ofByte_eq_data (k : Byte) : FrameKind.ofByte k = some .data ↔ k = 0x10 := by revert k; decide +kernel
theorem ofByte_eq_request (k : Byte) : FrameKind.ofByte k = some .request ↔ k = 0x20 := by revert k; decide +kernel
theorem ofByte_eq_reply (k : Byte) : FrameKind.ofByte k = some .reply ↔ k = 0x30 := by revert k; decide +kernel
theorem ofByte_eq_busy (k : Byte) : FrameKind.ofByte k = some .busy ↔ k = 0x31 := by revert k; decide +kernel
theorem ofByte_eq_hold (k : Byte) : FrameKind.ofByte k = some .hold ↔ k = 0x40 := by revert k; decide +kernel
theorem ofByte_eq_resume (k : Byte) : FrameKind.ofByte k = some .resume ↔ k = 0x41 := by revert k; decide +kernel
theorem ofByte_eq_none (k : Byte) :
    FrameKind.ofByte k = none ↔ k ∉ ([0x10, 0x20, 0x30, 0x31, 0x40, 0x41] : List Byte) := by revert k; decide +kernel

/-- Whether an inbound queue has no room, as the laws say it (R87). -/
theorem inboundFull_eq (m : Master) (s : State) : inboundFull m s = !decide ((s.delivery.inbound.get m).length < 16) := by
  rw [← decide_not]
  exact decide_eq_decide.mpr Nat.not_lt.symm

/-- The masters that take an entry, as the laws say it (R87, R101). -/
theorem takers_eq (targets : MasterSet) (s : State) :
    takers targets s = PerMaster.tabulate fun m => targets.get m && decide ((s.delivery.inbound.get m).length < 16) := by
  simp only [takers, inboundFull_eq, Bool.not_not]

/-- Fan-out does what R101 and R102 ask, at every master and for the buffer. -/
theorem fanOut_fannedOut (targets : MasterSet) (e : DeliveryEntry) (s : State) :
    FannedOut targets.get e s (fanOut targets e s) := by
  unfold FannedOut fanOut
  simp only [← takers_eq]
  refine ⟨fun m _ => ?_, ?_⟩
  · by_cases h1 : targets.get m = true <;> by_cases h2 : (s.delivery.inbound.get m).length < 16 <;> split <;>
      simp [missedAt, raiseIn, countIn, takers, losers, inboundFull_eq, h1, h2, Counters.up, Notices.raise, PerSource.set]
  · split <;> simp [missedAt, raiseIn, countIn]

/-- A frame lost for want of a buffer (R103). -/
theorem noBufferAt_eq (targets : MasterSet) (s : State) : noBufferAt targets s = lostWithoutBuffer targets.get s := by
  unfold noBufferAt lostWithoutBuffer missedAt
  simp only [raiseIn, countIn]
  congr 1
  congr 1
  funext m
  rw [PerMaster.get_tabulate]
  cases targets.get m <;> simp [Counters.up]

/-- Delivery to a target set (R101, R103). -/
theorem deliverTo_delivered (targets : MasterSet) (h : Header) (b : Option BufferId) (late : Bool) (s : State) :
    Delivered targets.get h late s (deliverTo targets h b late s) b := by
  cases b with
  | none => exact noBufferAt_eq targets s
  | some b =>
    show FannedOut _ _ _ _
    simp only [deliverTo, entryOf, isGroup_or_isBroadcast]
    exact fanOut_fannedOut ..

/-- Delivery does not reach the line controller. -/
theorem deliverTo_line (targets : MasterSet) (h : Header) (b : Option BufferId) (late : Bool) (s : State) :
    (deliverTo targets h b late s).line = s.line := by
  cases b with
  | none => rfl
  | some b =>
    unfold deliverTo fanOut
    simp only
    split <;> rfl

/-- A frame report on a line that is UP in FIXED mode changes nothing (R62, R81). -/
theorem reportFrame_of_fixed {s : State} (good : Bool) (hu : s.line.state.isUp = true)
    (hm : s.line.settings.rateMode = .fixed) : reportFrame good s = s := by
  unfold reportFrame
  cases h : s.line.state with
  | up silence bad => simp only [hm]
  | _ => simp [h, LineState.isUp] at hu

/-- Time that passes leaves an UP line UP. -/
theorem lineTime_isUp (n : Nat) (s : State) : (lineTime n s).line.state.isUp = s.line.state.isUp := by
  simp only [lineTime]
  cases s.line.state <;> rfl

end Machine

end Sys2Proof
end

