-- ==== Sys2Proof/Laws/LineControl.lean ====
section
/-!
SUPPORT. What the shared operations of the line controller can do, said once: a reception abandoned (R63), the departure from UP
(R82), and the line state left for DOWN or SEEK (R65, R70, R75).
-/

namespace Sys2Proof.Machine

/-- A reception abandoned: no frame in progress, and its buffer out of use (R63). -/
theorem abandonReception_eq (s : State) :
    abandonReception s = { s with receiver := none, store := abandonedStore s } := by
  cases h : s.receiver with
  | none =>
    have e : abandonReception s = s := by unfold abandonReception; rw [h]
    have st : abandonedStore s = s.store := by unfold abandonedStore; rw [h]; rfl
    rw [e, st, ← h]
  | some f =>
    have e : abandonReception s = leaveUse f.buffer { s with receiver := none } := by unfold abandonReception; rw [h]
    have st : abandonedStore s = (leaveUse f.buffer s).store := by
      unfold abandonedStore leaveUse
      cases hb : f.buffer <;> simp [h, hb]
    rw [e, st]
    cases hb : f.buffer <;> simp [leaveUse]

/-- The departure from UP does in every block what R82 asks (R56, R63, R128, R135, R146). -/
theorem leaveUp_left (s : State) : LeftUp s (leaveUp s) := by
  have st : abandonedStore (cutAll (raiseAll .line (latchAll (fun f => { f with upKept := false }) s))) = abandonedStore s := rfl
  unfold leaveUp
  simp only [abandonReception_eq, st]
  cases hr : s.jobs.running with
  | none =>
    simp only [lineLost, cutAll, raiseAll, latchAll, hr, LeftUp]
    refine ⟨?_, ?_, ?_, trivial, fun b => rfl⟩
    · rw [← hr]; rfl
    · simp
    · simp [Notices.raise, PerSource.set, runsFor]
  | some r =>
    simp only [lineLost, cutAll, raiseAll, latchAll, hr, LeftUp]
    cases hd : r.doing <;>
    · simp only [silenceAwait, hr, hd, endJob, setRunning, complete, raiseAt, Running.departureEntry,
        Running.departureAwait, Running.departureLate, Job.departureOutcome]
      refine ⟨rfl, ?_, ?_, by trivial, fun b => Store.buffer_returnJob ..⟩
      · simp
      · intro m _
        by_cases hm : m = r.job.master
        · subst hm
          simp [Notices.raise, PerSource.set, runsFor]
        · simp [Notices.raise, PerSource.set, runsFor, PerMaster.get_modify_of_ne _ hm, Ne.symm hm]

/-- Of the line controller's own fields the departure from UP changes the latched flags only (R82). -/
theorem leaveUp_line (s : State) : (leaveUp s).line = { s.line with flags := (leaveUp s).line.flags } := by
  unfold leaveUp
  simp only [abandonReception_eq]
  cases hr : s.jobs.running with
  | none => simp only [lineLost, cutAll, raiseAll, latchAll, hr]
  | some r =>
    cases hd : r.doing <;>
      simp only [lineLost, cutAll, raiseAll, latchAll, hr, silenceAwait, hd, endJob, setRunning, complete, raiseAt]

/-- What has left UP has done so whatever its line state, code and idle measurement are. -/
theorem LeftUp.of_line {s t : State} (h : LeftUp s t) (l : Line) (hl : l.flags = t.line.flags) :
    LeftUp s { t with line := l } := by
  obtain ⟨h1, h2, h3, h4, h5⟩ := h
  refine ⟨?_, ?_, h3, h4, h5⟩
  · conv_lhs => rw [h1]
  · simpa [hl] using h2

theorem leaveState_of_up {s : State} (h : s.line.state.isUp = true) : leaveState s = leaveUp s := by
  unfold leaveState
  cases h' : s.line.state <;> simp [h', LineState.isUp] at h ⊢

theorem leaveState_of_not_up {s : State} (h : s.line.state ≠ .down) (h1 : s.line.state.isUp = false) :
    leaveState s = abandonReception s := by
  unfold leaveState
  cases h' : s.line.state <;> simp [h', LineState.isUp] at h h1 ⊢

/-- The line goes from UP to DOWN (R65, R82). -/
theorem goDown_of_up {s : State} (h : s.line.state.isUp = true) :
    LeftUp s (goDown s) ∧
      (goDown s).line = { s.line with state := .down, flags := (goDown s).line.flags, idle := 0, access := 0, low := 0 } := by
  have e : goDown s = { leaveUp s with line := { (leaveUp s).line with state := .down, idle := 0, access := 0, low := 0 } } := by
    unfold goDown; rw [leaveState_of_up h]
  rw [e]
  refine ⟨(leaveUp_left s).of_line _ rfl, ?_⟩
  simp only
  rw [leaveUp_line s]

/-- The line goes from UP to SEEK (R75, R82). -/
theorem goSeek_of_up {s : State} (h : s.line.state.isUp = true) :
    LeftUp s (goSeek s) ∧ (goSeek s).line = { s.line with state := .seek [], flags := (goSeek s).line.flags } := by
  have e : goSeek s = { leaveUp s with line := { (leaveUp s).line with state := .seek [] } } := by
    unfold goSeek setLineState; rw [leaveState_of_up h]
  rw [e]
  refine ⟨(leaveUp_left s).of_line _ rfl, ?_⟩
  simp only
  rw [leaveUp_line s]

/-- The line goes from SEEK or QUALIFY to DOWN (R65). -/
theorem goDown_of_not_up {s : State} (h : s.line.state ≠ .down) (h1 : s.line.state.isUp = false) :
    goDown s = { s with
      line := { s.line with state := .down, idle := 0, access := 0, low := 0 }, receiver := none, store := abandonedStore s } := by
  unfold goDown
  rw [leaveState_of_not_up h h1, abandonReception_eq]

/-- The line goes from SEEK or QUALIFY to SEEK (R75). -/
theorem goSeek_of_not_up {s : State} (h : s.line.state ≠ .down) (h1 : s.line.state.isUp = false) :
    goSeek s = { s with line := { s.line with state := .seek [] }, receiver := none, store := abandonedStore s } := by
  unfold goSeek setLineState
  rw [leaveState_of_not_up h h1, abandonReception_eq]

end Sys2Proof.Machine
end

