-- ==== Sys2Proof/Laws/FrameEnd.lean ====
section
/-!
SUPPORT. What a frame end does, said once: delivery and the job engine do not look at the line state and do not change it, so that
the line controller's report and the delivery can be taken in either order (R62, R81, R91); and the errors of a frame (R60).
-/

set_option Elab.async false

namespace Sys2Proof.Machine

/-! ### What does not look at the line state -/

theorem offerDamaged_setLineState (w : WordNo) (l : LineState) (s : State) :
    offerDamaged w (setLineState l s) = setLineState l (offerDamaged w s) := by
  unfold offerDamaged
  rw [apply_ite (setLineState l), apply_ite (setLineState l)]
  rfl

theorem uncorrectableFinding_setLineState (w : WordNo) (l : LineState) (s : State) :
    uncorrectableFinding w (setLineState l s) = setLineState l (uncorrectableFinding w s) := by
  have h : ∀ st : Store, ({ setLineState l s with store := st } : State) = setLineState l { s with store := st } := fun _ => rfl
  by_cases hf : (s.store.buffer (bufferOf w)).state = .free
  · simp only [uncorrectableFinding, setLineState_store, hf, if_true]; rfl
  · simp only [uncorrectableFinding, setLineState_store, hf, if_false, h, offerDamaged_setLineState]; rfl

theorem readWord_setLineState (w : WordNo) (l : LineState) (s : State) :
    readWord w (setLineState l s) = ((readWord w s).1, setLineState l (readWord w s).2) := by
  unfold readWord
  simp only [setLineState_store]
  split
  · rfl
  · rfl
  · rw [uncorrectableFinding_setLineState]

theorem readWords_setLineState (ws : List WordNo) (l : LineState) (s : State) :
    readWords ws (setLineState l s) = ((readWords ws s).1, setLineState l (readWords ws s).2) := by
  induction ws generalizing s with
  | nil => rfl
  | cons w rest ih => simp only [readWords, readWord_setLineState, ih]

theorem endJob_setLineState (outcome : JobOutcome) (failing : Option Nat) (l : LineState) (s : State) :
    endJob outcome failing (setLineState l s) = setLineState l (endJob outcome failing s) := by
  unfold endJob
  simp only [setLineState_jobs]
  split <;> rfl

theorem setRunning_setLineState (r : Option Running) (l : LineState) (s : State) :
    setRunning r (setLineState l s) = setLineState l (setRunning r s) := rfl

theorem beginAttempt_setLineState (r : Running) (b : BufferId) (h : Header) (l : LineState) (s : State) :
    beginAttempt r b h (setLineState l s) = setLineState l (beginAttempt r b h s) := by
  unfold beginAttempt
  simp only [setLineState_table, setLineState_holds, readWords_setLineState, endJob_setLineState, setLineState_store]
  split
  · rfl
  · split
    · rfl
    · split
      · rfl
      · split <;> rfl

theorem takeAttempt_setLineState (l : LineState) (s : State) : takeAttempt (setLineState l s) = setLineState l (takeAttempt s) := by
  unfold takeAttempt
  simp only [setLineState_jobs]
  split
  · rfl
  · split
    · rw [setRunning_setLineState]; exact beginAttempt_setLineState ..
    · rfl

theorem orderReached_setLineState (fuel : Nat) (l : LineState) (s : State) :
    orderReached fuel (setLineState l s) = setLineState l (orderReached fuel s) := by
  induction fuel generalizing s with
  | zero => rfl
  | succ n ih =>
    unfold orderReached
    simp only [setLineState_jobs]
    split
    · rfl
    · split
      · exact endJob_setLineState ..
      · split
        · exact endJob_setLineState ..
        · split
          · rfl
          · split
            · rw [setRunning_setLineState]; exact endJob_setLineState ..
            · rfl
          · rw [setRunning_setLineState]; exact ih _
          · rfl
          · rw [setRunning_setLineState]; exact endJob_setLineState ..

/-- The job engine begins the order that is due without regard to the line state (R119 to R126). -/
theorem orderDue_setLineState (fuel : Nat) (l : LineState) (s : State) :
    orderDue fuel (setLineState l s) = setLineState l (orderDue fuel s) := by
  unfold orderDue
  rw [orderReached_setLineState, takeAttempt_setLineState]

theorem nextOrder_setLineState (l : LineState) (s : State) : nextOrder (setLineState l s) = setLineState l (nextOrder s) := by
  unfold nextOrder
  simp only [setLineState_jobs]
  split
  · rfl
  · rw [setRunning_setLineState]; exact orderDue_setLineState ..

theorem leaveUse_setLineState (b : Option BufferId) (l : LineState) (s : State) :
    leaveUse b (setLineState l s) = setLineState l (leaveUse b s) := by cases b <;> rfl

theorem deliverTo_setLineState (targets : MasterSet) (h : Header) (b : Option BufferId) (late : Bool) (l : LineState) (s : State) :
    deliverTo targets h b late (setLineState l s) = setLineState l (deliverTo targets h b late s) := by
  cases b with
  | none => rfl
  | some b =>
    unfold deliverTo fanOut
    simp only [show ∀ ts, takers ts (setLineState l s) = takers ts s from fun _ => rfl]
    split <;> rfl

theorem capture_setLineState (r : Running) (outcome : AwaitOutcome) (b : Option BufferId) (l : LineState) (s : State) :
    capture r outcome b (setLineState l s) = setLineState l (capture r outcome b s) := by
  unfold capture
  cases b with
  | none =>
    have h : ∀ ms, noBufferAt ms (setLineState l s) = setLineState l (noBufferAt ms s) := fun _ => rfl
    simp only [h, leaveUse_setLineState, setRunning_setLineState, nextOrder_setLineState]
  | some b =>
    have h : ∀ st : Store, ({ setLineState l s with store := st } : State) = setLineState l { s with store := st } := fun _ => rfl
    simp only [h, setLineState_store, leaveUse_setLineState, setRunning_setLineState, nextOrder_setLineState]

theorem captures_setLineState (h : Header) (l : LineState) (s : State) : captures h (setLineState l s) = captures h s := rfl

theorem deliverReply_setLineState (outcome : AwaitOutcome) (h : Header) (b : Option BufferId) (l : LineState) (s : State) :
    deliverReply outcome h b (setLineState l s) = setLineState l (deliverReply outcome h b s) := by
  unfold deliverReply
  simp only [captures_setLineState, setLineState_table, setLineState_delivery,
    show targetSet (setLineState l s) h.destination = targetSet s h.destination from rfl]
  split
  · exact capture_setLineState ..
  · split
    · exact deliverTo_setLineState ..
    · split
      · exact deliverTo_setLineState ..
      · split
        · exact deliverTo_setLineState (s := { s with delivery := _ }) ..
        · exact deliverTo_setLineState ..

theorem deliverRequest_setLineState (h : Header) (b : Option BufferId) (l : LineState) (s : State) :
    deliverRequest h b (setLineState l s) = setLineState l (deliverRequest h b s) := by
  unfold deliverRequest
  simp only [setLineState_table, setLineState_delivery, setLineState_ports, setLineState_line, setLineState_store]
  cases ownerOf s.table h.destination with
  | none => exact leaveUse_setLineState ..
  | some m =>
    cases b with
    | none => by_cases hl : s.line.settings.listenOnly = true <;> simp only [hl, if_true] <;> rfl
    | some b =>
      by_cases hb : (s.delivery.inbound.get m).length < (s.ports.get m).settings.busyThreshold
      · simp only [hb, if_true]; exact deliverTo_setLineState ..
      · by_cases hl : s.line.settings.listenOnly = true <;> simp only [hb, hl, if_true, if_false] <;> rfl

/-- The delivery decision does not look at the line state and does not change it (R91). -/
theorem deliver_setLineState (h : Header) (b : Option BufferId) (l : LineState) (s : State) :
    deliver h b (setLineState l s) = setLineState l (deliver h b s) := by
  unfold deliver
  split
  · rw [leaveUse_setLineState]; rfl
  · rw [leaveUse_setLineState]; rfl
  · exact deliverReply_setLineState ..
  · exact deliverReply_setLineState ..
  · split
    · exact deliverRequest_setLineState ..
    · exact deliverTo_setLineState ..
  · exact deliverTo_setLineState ..
  · exact leaveUse_setLineState ..

/-! ### What changes of the line controller only the latched flags -/

/-- Of the line controller at most the latched flags differ. -/
def SameLine (s t : State) : Prop := t.line = { s.line with flags := t.line.flags }

theorem SameLine.refl (s : State) : SameLine s s := rfl

theorem SameLine.of_eq {s t : State} (h : t.line = s.line) : SameLine s t := by unfold SameLine; rw [h]

theorem SameLine.trans {s t u : State} (h : SameLine s t) (k : SameLine t u) : SameLine s u := by
  unfold SameLine at *
  rw [k, h]

theorem SameBesideStore.sameLine {s t : State} (h : SameBesideStore s t) : SameLine s t := by
  obtain ⟨-, -, -, -, -, -, -, -, -, -, -, -, h1, h2, h3, h4, h5, h6, h7⟩ := h
  unfold SameLine
  calc t.line = ⟨t.line.state, t.line.want, t.line.settings, t.line.learned, t.line.flags, t.line.idle, t.line.access,
        t.line.low⟩ := rfl
    _ = _ := by rw [h1, h2, h3, h4, h5, h6, h7]

theorem endJob_line (outcome : JobOutcome) (failing : Option Nat) (s : State) : (endJob outcome failing s).line = s.line := by
  unfold endJob; split <;> rfl

theorem beginAttempt_sameLine (r : Running) (b : BufferId) (h : Header) (s : State) : SameLine s (beginAttempt r b h s) := by
  unfold beginAttempt
  simp only
  split
  · exact .of_eq (endJob_line ..)
  · split
    · exact .of_eq (endJob_line ..)
    · split
      · exact .of_eq (endJob_line ..)
      · split
        · exact ((readWords_sameBesideStore ..).sameLine).trans (.of_eq (endJob_line ..))
        · exact (readWords_sameBesideStore (wordsOf b 0 ((4 + h.length.toNat) / 8)) s).sameLine

theorem takeAttempt_sameLine (s : State) : SameLine s (takeAttempt s) := by
  unfold takeAttempt
  split
  · rfl
  · split
    · exact beginAttempt_sameLine (s := setRunning _ s) ..
    · rfl

theorem orderReached_sameLine (fuel : Nat) (s : State) : SameLine s (orderReached fuel s) := by
  induction fuel generalizing s with
  | zero => rfl
  | succ n ih =>
    unfold orderReached
    split
    · rfl
    · simp only
      split
      · exact .of_eq (endJob_line ..)
      · split
        · exact .of_eq (endJob_line ..)
        · split
          · rfl
          · split
            · exact .of_eq (endJob_line (s := setRunning _ s) ..)
            · rfl
          · exact ih (setRunning _ s)
          · rfl
          · exact .of_eq (endJob_line (s := setRunning _ s) ..)

theorem orderDue_sameLine (fuel : Nat) (s : State) : SameLine s (orderDue fuel s) :=
  (orderReached_sameLine fuel s).trans (takeAttempt_sameLine _)

theorem nextOrder_sameLine (s : State) : SameLine s (nextOrder s) := by
  unfold nextOrder
  split
  · rfl
  · exact orderDue_sameLine _ (setRunning _ s)

theorem capture_sameLine (r : Running) (outcome : AwaitOutcome) (b : Option BufferId) (s : State) :
    SameLine s (capture r outcome b s) := by
  unfold capture
  refine SameLine.trans (.of_eq ?_) (nextOrder_sameLine _)
  cases b <;> simp

theorem deliverTo_sameLine (targets : MasterSet) (h : Header) (b : Option BufferId) (late : Bool) (s : State) :
    SameLine s (deliverTo targets h b late s) := .of_eq (deliverTo_line ..)

theorem deliverReply_sameLine (outcome : AwaitOutcome) (h : Header) (b : Option BufferId) (s : State) :
    SameLine s (deliverReply outcome h b s) := by
  unfold deliverReply
  split
  · exact capture_sameLine ..
  · simp only
    split
    · exact deliverTo_sameLine ..
    · split
      · exact deliverTo_sameLine ..
      · split
        · exact .of_eq (deliverTo_line ..)
        · exact deliverTo_sameLine ..

theorem deliverRequest_sameLine (h : Header) (b : Option BufferId) (s : State) : SameLine s (deliverRequest h b s) := by
  refine .of_eq ?_
  unfold deliverRequest
  simp only
  split
  · exact leaveUse_line ..
  · split
    · split
      · exact noBufferAt_line ..
      · exact (placeBusy_line ..).trans (noBufferAt_line ..)
    · split
      · exact deliverTo_line ..
      · split <;> simp

/-- The delivery decision changes of the line controller at most the latched flags (R91). -/
theorem deliver_sameLine (h : Header) (b : Option BufferId) (s : State) : SameLine s (deliver h b s) := by
  unfold deliver
  split
  · exact .of_eq (leaveUse_line ..)
  · exact .of_eq (leaveUse_line ..)
  · exact deliverReply_sameLine ..
  · exact deliverReply_sameLine ..
  · split
    · exact deliverRequest_sameLine ..
    · exact deliverTo_sameLine ..
  · exact deliverTo_sameLine ..
  · exact .of_eq (leaveUse_line ..)

/-! ### The frame end -/

/-- A settled frame end takes no attempt before it. -/
theorem attemptBeforeFrameEnd_eq {s : State} (h : FrameEndSettled s) : attemptBeforeFrameEnd s = s := by
  unfold attemptBeforeFrameEnd
  split
  · rfl
  · rename_i hw
    exact takeAttempt_of_settled (h.resolve_right hw)

/-- A frame end of a line that is UP: the good, matched frame is delivered in the state that `goodFrameEnded` writes out (R62, R81,
R91). -/
theorem exec_frameEnd_delivers {s : State} {f : Frame} (hs : FrameEndSettled s) (hf : s.receiver = some f) (he : frameError f = none)
    (hm : f.matched = some true) (hu : s.line.state.isUp = true) :
    exec .frameEnd s = .next (deliver (headerOf f.header) f.buffer (goodFrameEnded s)) := by
  cases hl : s.line.state with
  | up silence bad =>
    have hend : goodFrameEnded s = setLineState
        (.up (min (silenceTimeout s.line.settings) (silence + endGapWait s))
          (if s.line.settings.rateMode = .learn then 0 else bad)) { untilEndGap s with receiver := none } := by
      simp only [goodFrameEnded, untilEndGap, lineTime, hl, LineState.after]; rfl
    have hu' : ({ untilEndGap s with receiver := none } : State).line.state.isUp = true := by
      simp [untilEndGap, hl, LineState.after, LineState.isUp]
    have hd := deliver_sameLine (headerOf f.header) f.buffer { untilEndGap s with receiver := none }
    rw [hend, deliver_setLineState]
    simp only [exec, execFrameEnd, attemptBeforeFrameEnd_eq hs, hf, endFrame, he, hm, hu', decide_true, Bool.and_true, if_true]
    generalize deliver (headerOf f.header) f.buffer { untilEndGap s with receiver := none } = u at hd ⊢
    have hs : u.line.state = .up (min (silenceTimeout s.line.settings) (silence + endGapWait s)) bad := by
      rw [hd]; simp [untilEndGap, hl, LineState.after]
    have hr : u.line.settings.rateMode = s.line.settings.rateMode := by rw [hd]; simp [untilEndGap]
    unfold reportFrame
    simp only [hs, hr]
    cases s.line.settings.rateMode with
    | fixed => simp [setLineState, ← hs]
    | learn => simp
  | _ => simp [hl, LineState.isUp] at hu

end Sys2Proof.Machine
end

