-- ==== Sys2Proof/Laws/Attempts.lean ====
section
/-!
SUPPORT. What the beginning of an attempt can change, said once: the store, the counters, the notices, the latched flags, the waiting
attempt and the running job's end (R51, R120, R128).
-/

namespace Sys2Proof.Machine

/-- Everything that the beginning of an attempt leaves as it was. -/
def SameBesideAttempt (s t : State) : Prop :=
  t.resetLow = s.resetLow ∧ t.clearing = s.clearing ∧ t.table = s.table ∧ t.receiver = s.receiver ∧
    t.transmitter.wire = s.transmitter.wire ∧ t.transmitter.slot = s.transmitter.slot ∧ t.delivery = s.delivery ∧
    t.jobs.outbound = s.jobs.outbound ∧ t.jobs.tagCounter = s.jobs.tagCounter ∧ t.jobs.pointer = s.jobs.pointer ∧
    t.holds = s.holds ∧ t.ports = s.ports ∧ t.timeBase = s.timeBase ∧ t.fresh = s.fresh ∧ t.pending = s.pending ∧
    SameLine s t

theorem SameBesideAttempt.refl (s : State) : SameBesideAttempt s s := by simp [SameBesideAttempt, SameLine]

theorem SameBesideAttempt.trans {s t u : State} (h : SameBesideAttempt s t) (k : SameBesideAttempt t u) :
    SameBesideAttempt s u := by
  obtain ⟨h1, h2, h3, h4, h5, h6, h7, h8, h9, h10, h11, h12, h13, h14, h15, h16⟩ := h
  obtain ⟨k1, k2, k3, k4, k5, k6, k7, k8, k9, k10, k11, k12, k13, k14, k15, k16⟩ := k
  exact ⟨k1.trans h1, k2.trans h2, k3.trans h3, k4.trans h4, k5.trans h5, k6.trans h6, k7.trans h7, k8.trans h8, k9.trans h9,
    k10.trans h10, k11.trans h11, k12.trans h12, k13.trans h13, k14.trans h14, k15.trans h15, h16.trans k16⟩

theorem SameBesideStore.sameBesideAttempt {s t : State} (h : SameBesideStore s t) : SameBesideAttempt s t := by
  have hl := h.sameLine
  obtain ⟨h1, h2, h3, h4, h5, h6, h7, h8, h9, h10, h11, h12, -⟩ := h
  exact ⟨h1, h2, h3, h4, by rw [h5], by rw [h5], h6, by rw [h7], by rw [h7], by rw [h7], h8, h9, h10, h11, h12, hl⟩

theorem endJob_sameBesideAttempt (outcome : JobOutcome) (failing : Option Nat) (s : State) :
    SameBesideAttempt s (endJob outcome failing s) := by
  unfold endJob
  split
  · exact .refl s
  · simp [SameBesideAttempt, SameLine, complete, setRunning]

theorem beginAttempt_sameBesideAttempt (r : Running) (b : BufferId) (h : Header) (s : State) :
    SameBesideAttempt s (beginAttempt r b h s) := by
  have hf := (readWords_sameBesideStore (wordsOf b 0 ((4 + h.length.toNat) / 8)) s).sameBesideAttempt
  unfold beginAttempt
  simp only
  split
  · exact endJob_sameBesideAttempt ..
  · split
    · exact endJob_sameBesideAttempt ..
    · split
      · exact endJob_sameBesideAttempt ..
      · split
        · exact hf.trans (endJob_sameBesideAttempt ..)
        · exact hf

theorem takeAttempt_sameBesideAttempt (s : State) : SameBesideAttempt s (takeAttempt s) := by
  unfold takeAttempt
  split
  · exact .refl s
  · split
    · exact .trans (t := setRunning _ s) (by simp [SameBesideAttempt, SameLine, setRunning]) (beginAttempt_sameBesideAttempt ..)
    · exact .refl s

/-- An attempt that begins leaves its job RUNNING as it was, or no job (R120, R128). -/
theorem beginAttempt_running (r : Running) (b : BufferId) (h : Header) (s : State) :
    (beginAttempt r b h s).jobs.running = none ∨ (beginAttempt r b h s).jobs.running = s.jobs.running := by
  have hf : (readWords (wordsOf b 0 ((4 + h.length.toNat) / 8)) s).2.jobs = s.jobs := (readWords_sameBesideStore ..).2.2.2.2.2.2.1
  unfold beginAttempt
  simp only
  split
  · exact .inl (endJob_running ..)
  · split
    · exact .inl (endJob_running ..)
    · split
      · exact .inl (endJob_running ..)
      · split
        · exact .inl (endJob_running ..)
        · exact .inr (by rw [hf])

/-- Once an attempt that was due has begun, none is due. -/
theorem takeAttempt_settled (s : State) : Settled (takeAttempt s) := by
  cases hr : s.jobs.running with
  | none => rw [takeAttempt_of_settled (settled_of_none hr)]; exact settled_of_none hr
  | some r =>
    cases hd : r.doing with
    | due b h =>
      rw [takeAttempt_of_due hr hd]
      rcases beginAttempt_running { r with doing := .send } b h (setRunning (some { r with doing := .send }) s) with k | k
      · exact settled_of_none k
      · exact settled_of_doing k (by simp)
    | _ =>
      have hs : Settled s := settled_of_doing hr (by simp [hd])
      rw [takeAttempt_of_settled hs]
      exact hs

@[simp] theorem takeAttempt_takeAttempt (s : State) : takeAttempt (takeAttempt s) = takeAttempt s :=
  takeAttempt_of_settled (takeAttempt_settled s)

end Sys2Proof.Machine
end

