-- ==== Sys2Proof/Laws/Bytes.lean ====
section
/-!
SUPPORT. The byte layouts of a command read back what they wrote: two-byte values, orders, settings records.
-/

namespace Sys2Proof

theorem halfBytes_eq (h : Half) : halfBytes h = [BitVec.ofNat 8 (h.toNat / 256), BitVec.ofNat 8 h.toNat] := rfl

theorem length_halfBytes (h : Half) : (halfBytes h).length = 2 := rfl

/-- A two-byte value is read back from its bytes. -/
theorem halfOf_halfBytes (h : Half) : halfOf (BitVec.ofNat 8 (h.toNat / 256)) (BitVec.ofNat 8 h.toNat) = h := by
  apply BitVec.eq_of_toNat_eq
  have := h.isLt
  simp only [halfOf, BitVec.toNat_ofNat]
  omega

/-- The bytes of a two-byte value built from two bytes. -/
theorem halfBytes_halfOf (high low : Byte) : halfBytes (halfOf high low) = [high, low] := by
  have h1 := high.isLt
  have h2 := low.isLt
  have h : (halfOf high low).toNat = high.toNat * 256 + low.toNat := by
    simp only [halfOf, BitVec.toNat_ofNat]
    omega
  simp only [halfBytes, h, List.cons.injEq, and_true]
  constructor <;> apply BitVec.eq_of_toNat_eq <;> simp only [BitVec.toNat_ofNat] <;> omega

theorem ordersOfBytes_flatMap (orders : List OrderBytes) : ordersOfBytes (orders.flatMap bytesOfOrder) = orders := by
  induction orders with
  | nil => rfl
  | cons o rest ih => simp only [List.flatMap_cons, bytesOfOrder, List.cons_append, List.nil_append, ordersOfBytes, ih]

theorem length_flatMap_bytesOfOrder (orders : List OrderBytes) : (orders.flatMap bytesOfOrder).length = 4 * orders.length := by
  induction orders with
  | nil => rfl
  | cons o rest ih =>
    simp only [List.flatMap_cons, List.length_append, ih, List.length_cons, bytesOfOrder, List.length_nil]
    omega

theorem settingsOfBytes_bytesOfSettings (r : SettingsBytes) : settingsOfBytes (bytesOfSettings r) = some r := by
  simp only [bytesOfSettings, halfBytes_eq, List.cons_append, List.nil_append, settingsOfBytes, halfOf_halfBytes]

theorem length_bytesOfSettings (r : SettingsBytes) : (bytesOfSettings r).length = 14 := rfl

/-- Only the order count decides how many argument bytes SUBMIT has. -/
theorem expectedArguments_submit (count : Byte) (rest : List Byte) :
    expectedArguments 0x40 (count :: rest) = some (1 + 4 * submitOrderCount count) := rfl

/-- Only the count decides how many argument bytes WRITE has. -/
theorem expectedArguments_write (b o c : Half) (data : List Byte) :
    expectedArguments 0x33 (halfBytes b ++ halfBytes o ++ halfBytes c ++ data) = some (6 + writeDataLength c) := by
  have h := halfOf_halfBytes c
  simp only [halfBytes_eq, List.cons_append, List.nil_append]
  show some (6 + writeDataLength (halfOf _ _)) = _
  simp only [List.getD_cons_succ, List.getD_cons_zero, h]

end Sys2Proof
end

