-- ==== Sys2Proof/Laws/Upsets.lean ====
section
/-!
SUPPORT. What a store upset does to the condition of every word and to the bits that stand (R1), and what a finding leaves of them
(R3, R20 to R22).
-/

set_option Elab.async false

namespace Sys2Proof.Machine

/-! ### The upset entries -/

theorem find?_insertUpset_self {u : Upset} {us : List Upset} (h : us.find? (fun x => x.word = u.word) = none) :
    (insertUpset u us).find? (fun x => x.word = u.word) = some u := by
  induction us with
  | nil => simp [insertUpset]
  | cons v rest ih =>
    rw [List.find?_cons] at h
    by_cases hv : v.word = u.word
    · simp [hv] at h
    · simp only [hv, decide_false] at h
      unfold insertUpset
      split
      · simp
      · simp [hv, ih h]

theorem find?_insertUpset_of_ne {u : Upset} {w : WordNo} (hw : u.word ≠ w) (us : List Upset) :
    (insertUpset u us).find? (fun x => x.word = w) = us.find? fun x => x.word = w := by
  induction us with
  | nil => simp [insertUpset, hw]
  | cons v rest ih =>
    unfold insertUpset
    split
    · simp [hw]
    · simp [List.find?_cons, ih]

theorem Store.upsetAt_clearUpset_self (st : Store) (w : WordNo) : (st.clearUpset w).upsetAt w = none := by
  simp [Store.upsetAt, Store.clearUpset, List.find?_eq_none]

theorem Store.upsetAt_clearUpset_of_ne (st : Store) {w v : WordNo} (hv : v ≠ w) :
    (st.clearUpset w).upsetAt v = st.upsetAt v := by
  simp only [Store.upsetAt, Store.clearUpset, List.find?_filter]
  congr 1
  funext u
  by_cases h : u.word = v
  · simp [h, hv]
  · simp [h]

/-- A correctable finding leaves its word clean and every other word's condition as it was (R20). -/
theorem Store.condition_clearUpset (st : Store) (w v : WordNo) :
    (st.clearUpset w).condition v = if v = w then .clean else st.condition v := by
  by_cases h : v = w
  · subst h; simp [Store.condition, Store.upsetAt_clearUpset_self]
  · simp [Store.condition, Store.upsetAt_clearUpset_of_ne st h, h]

/-- The entry of the upset word after a store upset (R1). -/
theorem Store.upsetAt_addUpset_self (st : Store) (w : WordNo) (mask : BitVec 64) :
    (st.addUpset w mask).upsetAt w = some (match st.upsetAt w with
      | none => ⟨w, false, mask⟩
      | some u => ⟨w, true, u.flips ^^^ mask⟩) := by
  unfold Store.addUpset
  cases h : st.upsetAt w with
  | none => exact find?_insertUpset_self (u := ⟨w, false, mask⟩) h
  | some u => exact find?_insertUpset_self (u := ⟨w, true, u.flips ^^^ mask⟩) (st.upsetAt_clearUpset_self w)

theorem Store.upsetAt_addUpset_of_ne (st : Store) {w v : WordNo} (hv : v ≠ w) (mask : BitVec 64) :
    (st.addUpset w mask).upsetAt v = st.upsetAt v := by
  unfold Store.addUpset
  cases h : st.upsetAt w with
  | none => exact find?_insertUpset_of_ne (fun e => hv e.symm) _
  | some u => exact (find?_insertUpset_of_ne (fun e => hv e.symm) _).trans (st.upsetAt_clearUpset_of_ne hv)

theorem Store.addUpset_eq (st : Store) (w : WordNo) (mask : BitVec 64) :
    st.addUpset w mask = { st with upsets := (st.addUpset w mask).upsets } := by
  unfold Store.addUpset
  split <;> rfl

/-! ### Condition and bits after an upset -/

/-- A store upset moves a clean word to single upset and every other one to double upset (R1). -/
theorem Store.condition_addUpset_self (st : Store) (w : WordNo) (mask : BitVec 64) :
    (st.addUpset w mask).condition w = if st.condition w = .clean then .singleUpset else .doubleUpset := by
  unfold Store.condition
  rw [st.upsetAt_addUpset_self]
  rcases h : st.upsetAt w with - | u
  · rfl
  · cases hd : u.double <;> simp [hd]

theorem Store.condition_addUpset_of_ne (st : Store) {w v : WordNo} (hv : v ≠ w) (mask : BitVec 64) :
    (st.addUpset w mask).condition v = st.condition v := by
  simp only [Store.condition, st.upsetAt_addUpset_of_ne hv]

theorem Store.standing_addUpset_of_ne (st : Store) {w v : WordNo} (hv : v ≠ w) (mask : BitVec 64) :
    (st.addUpset w mask).standing v = st.standing v := by
  have hm : (st.addUpset w mask).mem = st.mem := by rw [st.addUpset_eq]
  simp only [Store.standing, Store.written, st.upsetAt_addUpset_of_ne hv, hm]

/-- The bits of a word as they stand are those written, flipped where its upsets say (R1). -/
theorem Store.wordBit_standing (st : Store) (w : WordNo) {k : Nat} (hk : k < 64) :
    wordBit (st.standing w) k =
      (wordBit (st.written w) k ^^ ((st.upsetAt w).map Upset.flips).any (·.getLsbD k)) := by
  have h8 : k / 8 < 8 := by omega
  unfold Store.standing
  cases h : st.upsetAt w with
  | none => simp
  | some u =>
    simp [wordBit, Store.written, flippedByte, h8, List.getD, Nat.mod_lt, Nat.div_add_mod]

/-- A store upset flips the one data bit that it names (R1). -/
theorem Store.wordBit_addUpset (st : Store) (w : WordNo) (mask : BitVec 64) {k : Nat} (hk : k < 64) :
    wordBit ((st.addUpset w mask).standing w) k = (wordBit (st.standing w) k ^^ mask.getLsbD k) := by
  have hm : (st.addUpset w mask).written w = st.written w := by
    simp only [Store.written]; rw [st.addUpset_eq]
  rw [Store.wordBit_standing _ _ hk, Store.wordBit_standing _ _ hk, hm, st.upsetAt_addUpset_self]
  cases h : st.upsetAt w <;> simp

theorem getLsbD_upsetMask (bit : Fin 72) {k : Nat} (hk : k < 64) : (upsetMask bit).getLsbD k = decide (k = bit.val) := by
  unfold upsetMask
  split
  · rw [BitVec.getLsbD_twoPow]
    simp only [*, decide_true, Bool.true_and, eq_comm]
  · have : k ≠ bit.val := by omega
    simp [this]

/-! ### Findings -/

/-- An uncorrectable finding on a buffer that is not FREE touches, of the store, the record of that buffer and the damaged-word table
(R22, R23). -/
theorem uncorrectableFinding_store {w : WordNo} {s : State} (h : (s.store.buffer (bufferOf w)).state ≠ .free) :
    (uncorrectableFinding w s).store =
      { s.store.setBuffer (bufferOf w) ⟨(s.store.buffer (bufferOf w)).state, true⟩ with
        damagedWords := (uncorrectableFinding w s).store.damagedWords } := by
  simp only [uncorrectableFinding, h, if_false, countAll_store, raiseIn_store]
  unfold offerDamaged
  (repeat' split) <;> rfl

end Sys2Proof.Machine
end

