-- ==== Sys2Proof/Laws/Characters.lean ====
section
/-!
SUPPORT. What the receiver does with a character, said once: the lookup (R39, R92), the frame that an address character begins (R58,
R61), and what a body character adds to it (R59).
-/

set_option Elab.async false

namespace Sys2Proof.Machine

/-- The lookup of R39, widened by R92. -/
theorem addressMatches_iff (s : State) (data : Byte) : addressMatches s data = true ↔ Matches data s := by
  unfold addressMatches Matches
  by_cases hb : data = 0xFF
  · have e : isBroadcast data = true := by simp only [isBroadcast, decide_eq_true_eq]; exact hb
    have n : (broadcastAcceptors s).isEmpty = false ↔ ∃ m, (s.ports.get m).settings.acceptBroadcast = true := by
      rw [← Bool.not_eq_true, MasterSet.isEmpty_iff]
      simp [broadcastAcceptors]
    rw [if_pos e, if_pos hb, Bool.not_eq_true', n]
  · have e : isBroadcast data = false := by simp only [isBroadcast, decide_eq_false_iff_not]; exact hb
    have t : (entryFor s.table data).isSome = true ↔ ∃ x ∈ s.table, x.address = data := by
      simp [entryFor]
    have k : (match captureKey s with
        | some key => decide (key.source = data)
        | none => false) = true ↔
        ∃ r key left, s.jobs.running = some r ∧ r.doing = .await key left ∧ key.source = data := by
      unfold captureKey
      cases hr : s.jobs.running with
      | none => simp
      | some r => cases hd : r.doing <;> simp [hd]
    simp only [e, Bool.false_eq_true, if_false, hb]
    by_cases h0 : data = 0
    · simp [h0]
    · simp only [h0, if_false, Bool.or_eq_true, ne_eq, not_false_eq_true, true_and]
      exact or_congr t k

/-- An address character begins a frame (R58). -/
theorem startFrame_begun (data : Byte) (stop : Bool) (s : State) : FrameBegun data stop s (startFrame data stop s) := by
  have h := addressMatches_iff s data
  unfold FrameBegun startFrame
  refine ⟨fun hu => ?_, fun hu => ⟨fun hm => ?_, fun hm => ⟨fun hq => ?_, fun b rest hq => ?_⟩⟩⟩
  · simp [hu, crcStart]
  · simp [hu, crcStart, h, hm]
  · simp [hu, crcStart, h, hm, Store.claimHead, hq]
  · simp [hu, crcStart, h, hm, Store.claimHead, hq]

/-- A full-word write, as a statement of the store says it (R2). -/
theorem Store.writeWord_eq (st : Store) (w : WordNo) (bytes : List Byte) :
    st.writeWord w bytes = { st with mem := (st.writeWord w bytes).mem, upsets := (st.writeWord w bytes).upsets } := rfl

/-- A body character adds to the frame in progress (R59). -/
theorem extendFrame_extended (data : Byte) (stop : Bool) (f : Frame) (s : State) :
    FrameExtended data stop f s (extendFrame data stop f s) := by
  have hfirst : (f.firstError.orElse fun _ => if stop then none else some .framing) =
      if f.firstError = none ∧ stop = false then some .framing else f.firstError := by
    cases f.firstError <;> cases stop <;> simp
  unfold extendFrame
  simp only [hfirst]
  generalize hh : (if f.count ≤ 4 then f.header ++ [data] else f.header) = header
  cases hl : header[4]? with
  | none =>
    cases hb : f.buffer with
    | none =>
      refine ⟨_, rfl, hh.symm, rfl, rfl, hb.symm, ?_, ?_, rfl, ?_⟩
      all_goals simp [hl, hb]
    | some b =>
      simp only [Bool.true_and]
      by_cases hn : f.firstError = none
      · have hi : f.firstError.isNone = true := by simp [hn]
        simp only [hi, if_true, placeByte, Bool.or_false, decide_eq_true_eq]
        by_cases h8 : (f.assembly ++ [data]).length = 8
        · simp only [h8, if_true]
          refine ⟨_, rfl, hh.symm, rfl, rfl, hb.symm, ?_, ?_, rfl, ?_⟩
          · simp [hl]
          · simp [hl]
          · refine ⟨by simp [hb, hl, hn], fun c hc _ => ⟨fun hf => absurd (.inl h8) hf, fun _ => ⟨rfl, rfl, ?_⟩⟩⟩
            obtain rfl : b = c := Option.some.inj (hb.symm.trans hc)
            exact ⟨fun hw a => Store.read_writeWord hw _ _ a, Store.condition_writeWord .., fun v hv =>
              Store.condition_writeWord_of_ne _ hv _⟩
        · simp only [h8, if_false]
          refine ⟨_, rfl, hh.symm, rfl, rfl, hb.symm, ?_, ?_, rfl, ?_⟩
          · simp [hl]
          · simp [hl]
          · exact ⟨by simp [hb, hl, hn], fun c hc _ => ⟨fun _ => ⟨rfl, rfl⟩, fun hf => absurd hf (by simpa [hl] using h8)⟩⟩
      · have hi : f.firstError.isNone = false := by cases h : f.firstError <;> simp_all
        simp only [hi, Bool.false_eq_true, if_false]
        refine ⟨_, rfl, hh.symm, rfl, rfl, hb.symm, ?_, ?_, rfl, ?_⟩
        all_goals simp [hl, hn]
  | some l =>
    cases hb : f.buffer with
    | none =>
      refine ⟨_, rfl, hh.symm, rfl, rfl, hb.symm, ?_, ?_, rfl, ?_⟩
      all_goals simp [hl, hb]
    | some b =>
      by_cases hp : f.firstError = none ∧ f.count ≤ lastStored l
      · have hi : (decide (f.count ≤ lastStored l) && f.firstError.isNone) = true := by simp [hp]
        simp only [hi, if_true, placeByte]
        by_cases h8 : (f.assembly ++ [data]).length = 8 ∨ f.count = lastStored l
        · have hc8 : (decide ((f.assembly ++ [data]).length = 8) || decide (f.count = lastStored l)) = true := by simpa using h8
          simp only [hc8, if_true]
          refine ⟨_, rfl, hh.symm, rfl, rfl, hb.symm, ?_, ?_, rfl, ?_⟩
          · simp [hl]
          · simp [hl]
          · refine ⟨fun h => ?_, fun c hc _ => ⟨fun hf => ?_, fun _ => ⟨rfl, rfl, ?_⟩⟩⟩
            · rcases h with h | h
              · simp [hb] at h
              · exact absurd ⟨hp.1, fun x hx => by obtain rfl : l = x := Option.some.inj (hl.symm.trans hx); exact hp.2⟩ h
            · exact absurd (h8.imp id fun h => ⟨l, hl, h⟩) hf
            obtain rfl : b = c := Option.some.inj (hb.symm.trans hc)
            exact ⟨fun hw a => Store.read_writeWord hw _ _ a, Store.condition_writeWord .., fun v hv =>
              Store.condition_writeWord_of_ne _ hv _⟩
        · have hc8 : (decide ((f.assembly ++ [data]).length = 8) || decide (f.count = lastStored l)) = false := by simpa using h8
          simp only [hc8, Bool.false_eq_true, if_false]
          refine ⟨_, rfl, hh.symm, rfl, rfl, hb.symm, ?_, ?_, rfl, ?_⟩
          · simp [hl]
          · simp [hl]
          · refine ⟨fun h => ?_, fun c hc _ => ⟨fun _ => ⟨rfl, rfl⟩, fun hf => ?_⟩⟩
            · rcases h with h | h
              · simp [hb] at h
              · exact absurd ⟨hp.1, fun x hx => by obtain rfl : l = x := Option.some.inj (hl.symm.trans hx); exact hp.2⟩ h
            · refine absurd (hf.imp id ?_) h8
              rintro ⟨x, hx, h⟩
              obtain rfl : l = x := Option.some.inj (hl.symm.trans hx)
              exact h
      · have hi : (decide (f.count ≤ lastStored l) && f.firstError.isNone) = false := by
          rw [Bool.eq_false_iff]; intro h; simp at h; exact hp ⟨h.2, h.1⟩
        simp only [hi, Bool.false_eq_true, if_false]
        refine ⟨_, rfl, hh.symm, rfl, rfl, hb.symm, ?_, ?_, rfl, ?_⟩
        · simp [hl]
        · simp [hl]
        · exact ⟨fun _ => ⟨rfl, rfl⟩, fun c _ h => absurd ⟨h.1, h.2 l hl⟩ hp⟩

/-- The frame in progress cut by an address character has been counted and has given its buffer back (R61). -/
theorem endBadFrame_framing {f : Frame} {s : State} (h : s.receiver = some f) :
    endBadFrame .framing f { s with receiver := none } =
      countAll .formatErrors { s with receiver := none, store := abandonedStore s } := by
  unfold endBadFrame abandonedStore
  cases hb : f.buffer <;> simp [h, hb, leaveUse] <;> rfl

theorem startFrame_countAll (n : CounterName) (data : Byte) (stop : Bool) (s : State) :
    startFrame data stop (countAll n s) = countAll n (startFrame data stop s) := by
  unfold startFrame
  simp only [countAll_line, countAll_store, show addressMatches (countAll n s) data = addressMatches s data from rfl]
  (repeat' split) <;> simp_all <;> rfl

theorem startFrame_line (data : Byte) (stop : Bool) (s : State) : (startFrame data stop s).line = s.line := by
  unfold startFrame
  (repeat' split) <;> rfl

theorem extendFrame_line (data : Byte) (stop : Bool) (f : Frame) (s : State) : (extendFrame data stop f s).line = s.line := by
  unfold extendFrame placeByte
  simp only
  (repeat' split) <;> rfl

/-- An address character is taken as `CharacterTaken` says; the frame that it cuts is then reported as a bad one (R58, R61). -/
theorem takeAddress_taken (data : Byte) (stop : Bool) (s : State) : ∃ u, CharacterTaken true data stop s u ∧ u.line = s.line ∧
    takeAddress data stop s = if s.receiver = none then u else reportFrame false u := by
  cases h : s.receiver with
  | none =>
    refine ⟨startFrame data stop s, ?_, startFrame_line .., by simp [takeAddress, h]⟩
    exact ⟨fun _ => startFrame_begun .., fun n => absurd h n⟩
  | some f =>
    refine ⟨countAll .formatErrors (startFrame data stop { s with receiver := none, store := abandonedStore s }), ?_,
      startFrame_line .., ?_⟩
    · exact ⟨fun n => by simp [h] at n, fun _ => ⟨_, startFrame_begun .., rfl⟩⟩
    · simp only [takeAddress, h, endBadFrame_framing h, startFrame_countAll, reduceCtorEq, if_false]

/-- A body character is taken as `CharacterTaken` says (R44, R59). -/
theorem takeBody_taken (data : Byte) (stop : Bool) (s : State) :
    CharacterTaken false data stop s (takeBody data stop s) ∧ (takeBody data stop s).line = s.line := by
  cases h : s.receiver with
  | none =>
    refine ⟨⟨fun _ => ?_, fun f hf => by simp [h] at hf⟩, ?_⟩ <;> simp [takeBody, h]
  | some f =>
    simp only [takeBody, h]
    refine ⟨⟨fun n => by simp [h] at n, fun g hg => ?_⟩, extendFrame_line ..⟩
    obtain rfl : f = g := Option.some.inj (h.symm.trans hg)
    exact extendFrame_extended ..

end Sys2Proof.Machine
end

