-- ==== Sys2Proof/Laws/Jobs.lean ====
section
/-!
SUPPORT. What the checks of an attempt find (R41, R148), and what a loop-back copy does (R107 to R109), said once.
-/

namespace Sys2Proof.Machine

theorem isHeld_iff (holds : List HoldEntry) (station : Byte) :
    isHeld holds station = true ↔ ∃ e ∈ holds, e.station = station := by
  simp [isHeld]

/-- The destination check fails for the sender's own address, and for another master's unless the frame is DATA (R41). -/
theorem destinationCheck_of_local {table : List TableEntry} {m : Master} {h : Header}
    (hl : ownerOf table h.destination = some m ∨ (ownerOf table h.destination ≠ none ∧ h.kind ≠ 0x10)) :
    destinationCheck table m h = .localTarget := by
  have hk : ¬h.kind = 0x10 → ¬FrameKind.ofByte h.kind = some .data := mt (ofByte_eq_data _).mp
  unfold destinationCheck
  cases ho : ownerOf table h.destination with
  | none => simp [ho] at hl
  | some o =>
    simp only [isUnicast_of_ownerOf ho, if_true]
    rcases hl with hl | ⟨-, hl⟩
    · rw [ho, Option.some.injEq] at hl
      rw [if_pos hl]
    · simp only [if_neg (hk hl), ite_self]

/-- A destination that passes the check, and whether its completion makes a loop-back copy (R41, R107). -/
theorem destinationCheck_of_sent {table : List TableEntry} {m : Master} {h : Header}
    (hl : ¬(ownerOf table h.destination = some m ∨ (ownerOf table h.destination ≠ none ∧ h.kind ≠ 0x10))) :
    destinationCheck table m h =
      .sent (decide (h.kind = 0x10) && (!isUnicast h.destination || (ownerOf table h.destination).isSome)) := by
  have hk : decide (FrameKind.ofByte h.kind = some .data) = decide (h.kind = 0x10) :=
    decide_eq_decide.mpr (ofByte_eq_data _)
  unfold destinationCheck
  simp only [hk]
  cases ho : ownerOf table h.destination with
  | none => cases isUnicast h.destination <;> simp
  | some o =>
    simp only [ho, Option.some.injEq, ne_eq, reduceCtorEq, not_false_eq_true, true_and, not_or, not_not] at hl
    simp [isUnicast_of_ownerOf ho, hl.1, hl.2]
    rfl

/-! ### The loop-back copy -/

theorem wordOf_val {b : BufferId} {k : Nat} (h : k < 32) : (wordOf b k).val = 32 * b.val + k := by
  simp only [wordOf, Nat.mod_eq_of_lt h]

/-- An image written from word `k` of a buffer on: its bytes, the words it reaches, and nothing else of the store (R107). -/
theorem Store.writeImage_spec (image : List Byte) (b : BufferId) (k n : Nat) (st : Store)
    (hn : n = (image.length + 7) / 8) (hk : k + n ≤ 32) :
    (Memory.wf st.mem = true → ∀ a, Memory.read (st.writeImage b k image).mem a =
      if 8 * (32 * b.val + k) ≤ a ∧ a < 8 * (32 * b.val + k) + 8 * n
      then image.getD (a - 8 * (32 * b.val + k)) 0 else Memory.read st.mem a) ∧
    (∀ w : WordNo, (st.writeImage b k image).condition w =
      if 32 * b.val + k ≤ w.val ∧ w.val < 32 * b.val + k + n then .clean else st.condition w) ∧
    st.writeImage b k image =
      { st with mem := (st.writeImage b k image).mem, upsets := (st.writeImage b k image).upsets } := by
  fun_induction Store.writeImage st b k image generalizing n with
  | case1 st k a0 a1 a2 a3 a4 a5 a6 a7 rest ih =>
    simp only [List.length_cons] at hn
    obtain ⟨p, rfl⟩ : ∃ p, n = p + 1 := ⟨n - 1, by omega⟩
    obtain ⟨h1, h2, h3⟩ := ih p (by omega) (by omega)
    have hw := wordOf_val (b := b) (k := k) (by omega)
    refine ⟨fun hm a => ?_, fun w => ?_, ?_⟩
    · rw [h1 (Store.writeWord_wf hm _ _), Store.read_writeWord hm, hw]
      split
      · rw [if_pos (by omega)]
        have e : a - 8 * (32 * b.val + k) = a - 8 * (32 * b.val + (k + 1)) + 8 := by omega
        rw [e]
        rfl
      · split
        · rw [if_pos (by omega)]
          obtain ⟨i, hi, rfl⟩ : ∃ i, i < 8 ∧ a = 8 * (32 * b.val + k) + i := ⟨a - 8 * (32 * b.val + k), by omega, by omega⟩
          simp only [Nat.add_sub_cancel_left]
          have : i = 0 ∨ i = 1 ∨ i = 2 ∨ i = 3 ∨ i = 4 ∨ i = 5 ∨ i = 6 ∨ i = 7 := by omega
          rcases this with rfl | rfl | rfl | rfl | rfl | rfl | rfl | rfl <;> rfl
        · rw [if_neg (by omega)]
    · rw [h2]
      by_cases hwk : w = wordOf b k
      · subst hwk
        rw [Store.condition_writeWord, ite_self, if_pos (by omega)]
      · rw [Store.condition_writeWord_of_ne _ hwk]
        have : w.val ≠ 32 * b.val + k := fun h => hwk (Fin.ext (h.trans hw.symm))
        by_cases hc : 32 * b.val + (k + 1) ≤ w.val ∧ w.val < 32 * b.val + (k + 1) + p
        · rw [if_pos hc, if_pos (by omega)]
        · rw [if_neg hc, if_neg (by omega)]
    · exact h3
  | case2 st k =>
    obtain rfl : n = 0 := hn
    exact ⟨fun _ a => by rw [if_neg (by omega)], fun w => by rw [if_neg (by omega)], rfl⟩
  | case3 st k tail hne htail =>
    have hl : 1 ≤ tail.length ∧ tail.length < 8 := by
      refine ⟨?_, ?_⟩
      · cases tail with
        | nil => exact absurd rfl htail
        | cons _ _ => simp
      · by_contra hlt
        match tail, hlt with
        | [], h | [_], h | [_, _], h | [_, _, _], h | [_, _, _, _], h | [_, _, _, _, _], h | [_, _, _, _, _, _], h
        | [_, _, _, _, _, _, _], h => simp at h
        | a0 :: a1 :: a2 :: a3 :: a4 :: a5 :: a6 :: a7 :: rest, _ => exact hne a0 a1 a2 a3 a4 a5 a6 a7 rest rfl
    obtain rfl : n = 1 := by omega
    have hw := wordOf_val (b := b) (k := k) (by omega)
    refine ⟨fun hm a => ?_, fun w => ?_, rfl⟩
    · rw [Store.read_writeWord hm, hw]
    · by_cases hwk : w = wordOf b k
      · subst hwk
        rw [Store.condition_writeWord, if_pos (by omega)]
      · rw [Store.condition_writeWord_of_ne _ hwk]
        have : w.val ≠ 32 * b.val + k := fun h => hwk (Fin.ext (h.trans hw.symm))
        rw [if_neg (by omega)]

/-- A loop-back copy does what R107 to R109 ask. -/
theorem loopBackCopy_loopedBack (sender : Master) (copy : List Byte) (s : State) (hc : copy.length ≤ 256) :
    LoopedBack sender copy s (loopBackCopy sender copy s) := by
  have ht : (fun m => (targetSet s (headerOf copy).destination).get m && decide (m ≠ sender)) =
      (MasterSet.erase (targetSet s (headerOf copy).destination) sender).get := by
    funext m
    rw [MasterSet.get_erase]
  unfold LoopedBack
  simp only [ht]
  refine ⟨fun h => ?_, fun b rest h => ?_⟩
  · simp only [loopBackCopy, h, ← MasterSet.get_erase]
    rfl
  · obtain ⟨h1, h2, h3⟩ := Store.writeImage_spec copy b 0 _ { s.store with freeQueue := rest } rfl (by omega)
    refine ⟨{ s with store := { s.store with freeQueue := rest }.writeImage b 0 copy }, ?_, fun hm a => ?_, fun w => ?_, ?_⟩
    · simp only
      conv_lhs => rw [h3]
    · have e : 8 * (32 * b.val + 0) = 256 * b.val := by omega
      rw [h1 hm a, e]
    · exact h2 w
    · simp only [loopBackCopy, h, entryOf, isGroup_or_isBroadcast]
      exact fanOut_fannedOut ..

end Sys2Proof.Machine
end

