-- ==== Sys2Proof/Laws/PerInstr.lean ====
section
/-!
SUPPORT. The family CommandComplete: the bytes of a well-formed command of a port are exactly as many as its code and the counts
in its arguments call for (R163, R169). One lemma for each constructor.
-/

namespace Sys2Proof.Laws.CommandComplete

/-- The arguments of a well-formed command are complete. -/
def Statement (i : Instr) : Prop :=
  WellFormed i = true → ∀ m code args, commandBytes i = some (m, code, args) → expectedArguments code args = some args.length

theorem powerOn (held : Bool) : Statement (.powerOn held) := by
  intro _ p code args h
  cases (show none = some (p, code, args) from h)

theorem startUpClearEnd : Statement .startUpClearEnd := by
  intro _ p code args h
  cases (show none = some (p, code, args) from h)

theorem storeUpset (word : Nat) (bit : Fin 72) : Statement (.storeUpset word bit) := by
  intro _ p code args h
  cases (show none = some (p, code, args) from h)

theorem patrolVisit : Statement .patrolVisit := by
  intro _ p code args h
  cases (show none = some (p, code, args) from h)

theorem csFalls (m : Master) : Statement (.csFalls m) := by
  intro _ p code args h
  cases (show none = some (p, code, args) from h)

theorem csRises (m : Master) : Statement (.csRises m) := by
  intro _ p code args h
  cases (show none = some (p, code, args) from h)

theorem unknownCommand (m : Master) (code : Byte) : Statement (.unknownCommand m code) := by
  intro _ p code args h
  cases (show none = some (p, code, args) from h)

theorem ident (m : Master) : Statement (.ident m) := by
  intro _ p code args e
  cases (show some (m, 0x01, []) = some (p, code, args) from e)
  rfl

theorem portSet (m : Master) (quota busyThreshold acceptBroadcast : Byte) : Statement (.portSet m quota busyThreshold acceptBroadcast) := by
  intro _ p code args e
  cases (show some (m, 0x02, [quota, busyThreshold, acceptBroadcast]) = some (p, code, args) from e)
  rfl

theorem portGet (m : Master) : Statement (.portGet m) := by
  intro _ p code args e
  cases (show some (m, 0x03, []) = some (p, code, args) from e)
  rfl

theorem portReset (m : Master) : Statement (.portReset m) := by
  intro _ p code args e
  cases (show some (m, 0x04, []) = some (p, code, args) from e)
  rfl

theorem wantLine (m : Master) : Statement (.wantLine m) := by
  intro _ p code args e
  cases (show some (m, 0x10, []) = some (p, code, args) from e)
  rfl

theorem unwantLine (m : Master) : Statement (.unwantLine m) := by
  intro _ p code args e
  cases (show some (m, 0x11, []) = some (p, code, args) from e)
  rfl

theorem lineSet (m : Master) (record : SettingsBytes) : Statement (.lineSet m record) := by
  intro _ p code args e
  cases (show some (m, 0x12, bytesOfSettings record) = some (p, code, args) from e)
  rfl

theorem lineGet (m : Master) : Statement (.lineGet m) := by
  intro _ p code args e
  cases (show some (m, 0x13, []) = some (p, code, args) from e)
  rfl

theorem lineState (m : Master) : Statement (.lineState m) := by
  intro _ p code args e
  cases (show some (m, 0x14, []) = some (p, code, args) from e)
  rfl

theorem relearn (m : Master) : Statement (.relearn m) := by
  intro _ p code args e
  cases (show some (m, 0x15, []) = some (p, code, args) from e)
  rfl

theorem claim (m : Master) (address : Byte) : Statement (.claim m address) := by
  intro _ p code args e
  cases (show some (m, 0x20, [address]) = some (p, code, args) from e)
  rfl

theorem drop (m : Master) (address : Byte) : Statement (.drop m address) := by
  intro _ p code args e
  cases (show some (m, 0x21, [address]) = some (p, code, args) from e)
  rfl

theorem join (m : Master) (address : Byte) : Statement (.join m address) := by
  intro _ p code args e
  cases (show some (m, 0x22, [address]) = some (p, code, args) from e)
  rfl

theorem leave (m : Master) (address : Byte) : Statement (.leave m address) := by
  intro _ p code args e
  cases (show some (m, 0x23, [address]) = some (p, code, args) from e)
  rfl

theorem tableRead (m : Master) (index : Byte) : Statement (.tableRead m index) := by
  intro _ p code args e
  cases (show some (m, 0x24, [index]) = some (p, code, args) from e)
  rfl

theorem alloc (m : Master) : Statement (.alloc m) := by
  intro _ p code args e
  cases (show some (m, 0x30, []) = some (p, code, args) from e)
  rfl

theorem free (m : Master) (buffer : Half) : Statement (.free m buffer) := by
  intro _ p code args e
  cases (show some (m, 0x31, halfBytes buffer) = some (p, code, args) from e)
  rfl

theorem adopt (m : Master) (buffer : Half) : Statement (.adopt m buffer) := by
  intro _ p code args e
  cases (show some (m, 0x32, halfBytes buffer) = some (p, code, args) from e)
  rfl

theorem write (m : Master) (buffer offset count : Half) (data : List Byte) : Statement (.write m buffer offset count data) := by
  intro h p code args e
  cases (show some (m, 0x33, halfBytes buffer ++ halfBytes offset ++ halfBytes count ++ data) = some (p, code, args) from e)
  simp only [WellFormed, decide_eq_true_eq] at h
  rw [expectedArguments_write]
  simp only [List.length_append, length_halfBytes, h]

theorem read (m : Master) (buffer offset count : Half) : Statement (.read m buffer offset count) := by
  intro _ p code args e
  cases (show some (m, 0x34, halfBytes buffer ++ halfBytes offset ++ halfBytes count) = some (p, code, args) from e)
  rfl

theorem scrub (m : Master) (buffer : Half) : Statement (.scrub m buffer) := by
  intro _ p code args e
  cases (show some (m, 0x35, halfBytes buffer) = some (p, code, args) from e)
  rfl

theorem storeStatus (m : Master) : Statement (.storeStatus m) := by
  intro _ p code args e
  cases (show some (m, 0x36, []) = some (p, code, args) from e)
  rfl

theorem submit (m : Master) (count : Byte) (orders : List OrderBytes) : Statement (.submit m count orders) := by
  intro h p code args e
  cases (show some (m, 0x40, count :: orders.flatMap bytesOfOrder) = some (p, code, args) from e)
  simp only [WellFormed, decide_eq_true_eq] at h
  rw [expectedArguments_submit, List.length_cons, length_flatMap_bytesOfOrder, h]
  exact congrArg some (Nat.add_comm _ _)

theorem cancel (m : Master) (tag : Byte) : Statement (.cancel m tag) := by
  intro _ p code args e
  cases (show some (m, 0x41, [tag]) = some (p, code, args) from e)
  rfl

theorem takeCompletion (m : Master) : Statement (.takeCompletion m) := by
  intro _ p code args e
  cases (show some (m, 0x42, []) = some (p, code, args) from e)
  rfl

theorem jobStatus (m : Master) : Statement (.jobStatus m) := by
  intro _ p code args e
  cases (show some (m, 0x43, []) = some (p, code, args) from e)
  rfl

theorem takeDelivery (m : Master) : Statement (.takeDelivery m) := by
  intro _ p code args e
  cases (show some (m, 0x50, []) = some (p, code, args) from e)
  rfl

theorem notice (m : Master) : Statement (.notice m) := by
  intro _ p code args e
  cases (show some (m, 0x60, []) = some (p, code, args) from e)
  rfl

theorem release (m : Master) (source : Byte) : Statement (.release m source) := by
  intro _ p code args e
  cases (show some (m, 0x61, [source]) = some (p, code, args) from e)
  rfl

theorem mask (m : Master) (enables : Byte) : Statement (.mask m enables) := by
  intro _ p code args e
  cases (show some (m, 0x62, [enables]) = some (p, code, args) from e)
  rfl

theorem stats (m : Master) : Statement (.stats m) := by
  intro _ p code args e
  cases (show some (m, 0x70, []) = some (p, code, args) from e)
  rfl

theorem time (m : Master) : Statement (.time m) := by
  intro _ p code args e
  cases (show some (m, 0x71, []) = some (p, code, args) from e)
  rfl

theorem addressCharacter (data : Byte) (stop : Bool) (runs : List Rat) (low : Nat) : Statement (.addressCharacter data stop runs low) := by
  intro _ p code args h
  cases (show none = some (p, code, args) from h)

theorem bodyCharacter (data : Byte) (stop : Bool) (runs : List Rat) (low : Nat) : Statement (.bodyCharacter data stop runs low) := by
  intro _ p code args h
  cases (show none = some (p, code, args) from h)

theorem frameEnd : Statement .frameEnd := by
  intro _ p code args h
  cases (show none = some (p, code, args) from h)

theorem attemptBeginsSending : Statement .attemptBeginsSending := by
  intro _ p code args h
  cases (show none = some (p, code, args) from h)

theorem automaticBusyStart : Statement .automaticBusyStart := by
  intro _ p code args h
  cases (show none = some (p, code, args) from h)

theorem characterSent (echo : BitVec 11) (low : Nat) : Statement (.characterSent echo low) := by
  intro _ p code args h
  cases (show none = some (p, code, args) from h)

theorem deRelease : Statement .deRelease := by
  intro _ p code args h
  cases (show none = some (p, code, args) from h)

theorem grant : Statement .grant := by
  intro _ p code args h
  cases (show none = some (p, code, args) from h)

theorem responseTimerExpiry : Statement .responseTimerExpiry := by
  intro _ p code args h
  cases (show none = some (p, code, args) from h)

theorem waitTimerExpiry : Statement .waitTimerExpiry := by
  intro _ p code args h
  cases (show none = some (p, code, args) from h)

theorem tenureTimerExpiry : Statement .tenureTimerExpiry := by
  intro _ p code args h
  cases (show none = some (p, code, args) from h)

theorem silenceTimeout : Statement .silenceTimeout := by
  intro _ p code args h
  cases (show none = some (p, code, args) from h)

theorem qualificationWindowExpiry : Statement .qualificationWindowExpiry := by
  intro _ p code args h
  cases (show none = some (p, code, args) from h)

theorem holdEntryExpiry : Statement .holdEntryExpiry := by
  intro _ p code args h
  cases (show none = some (p, code, args) from h)

theorem syncEdge (edge : Edge) : Statement (.syncEdge edge) := by
  intro _ p code args h
  cases (show none = some (p, code, args) from h)

theorem timeBaseIncrement : Statement .timeBaseIncrement := by
  intro _ p code args h
  cases (show none = some (p, code, args) from h)

theorem byteArrives (m : Master) (byte : Byte) : Statement (.byteArrives m byte) := by
  intro _ p code args h
  cases (show none = some (p, code, args) from h)

theorem answerByteClockedOut (m : Master) : Statement (.answerByteClockedOut m) := by
  intro _ p code args h
  cases (show none = some (p, code, args) from h)

end Sys2Proof.Laws.CommandComplete
end

