-- ==== Sys2Proof/Laws/PortReset.lean ====
section
/-!
SUPPORT. What a port reset does to each block, said once: the buffers (R28), the job engine and the transmitter (R56, R137, R138),
and the address table (R42).
-/

namespace Sys2Proof.Machine

/-- Several buffers that leave use in one event: each is FREE or QUARANTINED, and the undamaged ones stand at the free tail in the
order given (R9). -/
theorem Store.leaveUseAll_spec (bs : List BufferId) (st : Store) (hn : bs.Nodup) :
    (∀ b, (st.leaveUseAll bs).buffer b =
      if b ∈ bs then (if (st.buffer b).damaged then ⟨.quarantined, true⟩ else ⟨.free, false⟩) else st.buffer b) ∧
    st.leaveUseAll bs = { st with
      buffers := (st.leaveUseAll bs).buffers, freeQueue := st.freeQueue ++ bs.filter fun b => !(st.buffer b).damaged } := by
  induction bs generalizing st with
  | nil => simp [Store.leaveUseAll]
  | cons c rest ih =>
    have hn' := List.nodup_cons.mp hn
    obtain ⟨h1, h2⟩ := ih (st.leaveUse c) hn'.2
    have e : st.leaveUseAll (c :: rest) = (st.leaveUse c).leaveUseAll rest := rfl
    refine ⟨fun b => ?_, ?_⟩
    · rw [e, h1 b]
      by_cases hb : b = c
      · subst hb
        simp only [hn'.1, if_false, List.mem_cons_self, if_true, Store.leaveUse_eq]
        split
        · simp [*]
        · show (st.setState b .free).buffer b = _
          simp [*]
      · simp [hb, Store.leaveUse_buffer_of_ne _ hb]
    · rw [e, h2]
      have hf : rest.filter (fun b => !((st.leaveUse c).buffer b).damaged) = rest.filter fun b => !(st.buffer b).damaged := by
        apply List.filter_congr
        intro b hb
        rw [Store.leaveUse_buffer_of_ne]
        rintro rfl
        exact hn'.1 hb
      rw [hf, Store.leaveUse_eq]
      cases hd : (st.buffer c).damaged <;> simp [hd, Store.setState, Store.setBuffer]

theorem BufferState.releasedBy_without (v : BufferState) (m : Master) (lineGoes : Bool) :
    (v.without m).releasedBy m lineGoes = v.goesAtReset m lineGoes := by
  cases v <;> rfl

/-- The frame store's part of a port reset (R9, R28). -/
theorem Store.resetPort_spec (st : Store) (m : Master) (lineGoes : Bool) :
    (∀ b, (st.resetPort m lineGoes).buffer b = (st.buffer b).afterReset m lineGoes) ∧
    st.resetPort m lineGoes = { st with
      buffers := (st.resetPort m lineGoes).buffers, freeQueue := queueAfterReset m lineGoes st } := by
  let st1 : Store := { st with buffers := st.buffers.map fun r => { r with state := r.state.without m } }
  have hb (b : BufferId) : st1.buffer b = { st.buffer b with state := (st.buffer b).state.without m } := by
    simp [st1, Store.buffer]
  obtain ⟨h1, h2⟩ := Store.leaveUseAll_spec
    ((List.finRange 96).filter fun b => (st1.buffer b).state.releasedBy m lineGoes) st1
    ((List.nodup_finRange 96).filter _)
  refine ⟨fun b => ?_, ?_⟩
  · show (st1.leaveUseAll _).buffer b = _
    rw [h1 b]
    simp only [hb, List.mem_filter, List.mem_finRange, true_and, BufferState.releasedBy_without, BufferRecord.afterReset]
    split
    · rfl
    · cases hx : st.buffer b with
      | mk v d => cases v <;> rfl
  · have e : st.resetPort m lineGoes =
        st1.leaveUseAll ((List.finRange 96).filter fun b => (st1.buffer b).state.releasedBy m lineGoes) := rfl
    have hq : (((List.finRange 96).filter fun b => (st1.buffer b).state.releasedBy m lineGoes).filter
        fun b => !(st1.buffer b).damaged) =
        (List.finRange 96).filter fun b => (st.buffer b).state.goesAtReset m lineGoes && !(st.buffer b).damaged := by
      rw [List.filter_filter]
      congr 1
      funext b
      simp only [hb, BufferState.releasedBy_without, Bool.and_comm]
    rw [e, h2, hq]
    rfl

/-- The cut of a job's attempt at its master's port reset (R56). -/
theorem cutJob_transmitter {m : Master} {s : State} (h : runsFor m s.jobs.running = true) :
    (cutJob s).transmitter = transmitterAfterReset m s := by
  unfold cutJob transmitterAfterReset
  simp only [h, if_true]
  cases hw : s.transmitter.wire with
  | none => simp [Wire.sendsJob]
  | sending f rest => cases hs : f.sender <;> simp [Wire.sendsJob, Wire.cut, hs]
  | turnaround f left => cases hs : f.sender <;> simp [Wire.sendsJob, Wire.cut, hs]

/-- The job engine's part of a port reset (R56, R137, R138). -/
theorem resetJobs_eq (m : Master) (s : State) :
    resetJobs m s = { s with
      transmitter := transmitterAfterReset m s,
      jobs := { s.jobs with
        outbound := s.jobs.outbound.set m [], completions := s.jobs.completions.set m [],
        tagCounter := s.jobs.tagCounter.set m 0,
        running := if runsFor m s.jobs.running then none else s.jobs.running } } := by
  unfold resetJobs
  cases hr : s.jobs.running with
  | none => simp [runsFor, transmitterAfterReset, hr]
  | some r =>
    by_cases hm : r.job.master = m
    · rw [← cutJob_transmitter (m := m) (by simp [hr, runsFor, hm])]
      simp [runsFor, hm, setRunning, cutJob]
    · simp [runsFor, hm, transmitterAfterReset, hr]

theorem withoutMaster_eq (table : List TableEntry) (m : Master) : withoutMaster table m = tableAfterReset m table := rfl

end Sys2Proof.Machine
end

