-- ==== Sys2Proof/Laws/Rates.lean ====
section
/-!
SUPPORT. What the sample of the rate detector is: the greatest duration of which every run counted is a whole multiple (R76), and
which runs are counted (assumption log 12).
-/

namespace Sys2Proof.Machine

/-- The common measure of two whole multiples of a duration. -/
theorem commonMeasure_mul (a b : Nat) {d : Rat} (hd : 0 < d) :
    commonMeasure (a * d) (b * d) = (Nat.gcd a b : Nat) * d := by
  have num (n : Nat) : (((n * d : Rat).num.natAbs : Nat) : Rat) = n * d * ((n * d : Rat).den : Nat) := by
    have h0 : 0 ≤ (n * d : Rat).num := Rat.num_nonneg.mpr (by positivity)
    have h1 : (((n * d : Rat).num.natAbs : Nat) : Rat) = ((n * d : Rat).num : Rat) := by
      rw [← Int.cast_natCast, Int.natAbs_of_nonneg h0]
    rw [h1, Rat.mul_den_eq_num]
  have hdn : (d.num.natAbs : Rat) = d * (d.den : Nat) := by
    have h := num 1
    simpa using h
  have key (n m : Nat) : d.den * ((n * d : Rat).num.natAbs * m) = n * ((n * d : Rat).den * m * d.num.natAbs) := by
    have h : ((d.den * ((n * d : Rat).num.natAbs * m) : Nat) : Rat) =
        ((n * ((n * d : Rat).den * m * d.num.natAbs) : Nat) : Rat) := by
      push_cast
      rw [num n, hdn]
      ring
    exact_mod_cast h
  have g : d.den * Nat.gcd ((a * d : Rat).num.natAbs * (b * d : Rat).den) ((b * d : Rat).num.natAbs * (a * d : Rat).den) =
      Nat.gcd a b * ((a * d : Rat).den * (b * d : Rat).den * d.num.natAbs) := by
    rw [← Nat.gcd_mul_left, key, key, Nat.mul_comm (b * d : Rat).den, Nat.gcd_mul_right]
  have g' : (d.den : Rat) * (Nat.gcd ((a * d : Rat).num.natAbs * (b * d : Rat).den) ((b * d : Rat).num.natAbs * (a * d : Rat).den) : Nat) =
      (Nat.gcd a b : Nat) * ((a * d : Rat).den * (b * d : Rat).den * (d.num.natAbs : Nat)) := by exact_mod_cast g
  have h1 : ((a * d : Rat).den : Rat) ≠ 0 := by exact_mod_cast (a * d : Rat).den_ne_zero
  have h2 : ((b * d : Rat).den : Rat) ≠ 0 := by exact_mod_cast (b * d : Rat).den_ne_zero
  have h3 : (d.den : Rat) ≠ 0 := by exact_mod_cast d.den_ne_zero
  unfold commonMeasure
  rw [hdn] at g'
  push_cast
  rw [div_eq_iff (mul_ne_zero h1 h2)]
  apply mul_left_cancel₀ h3
  rw [g']
  generalize ((a * d : Rat).den : Rat) = x
  generalize ((b * d : Rat).den : Rat) = y
  ring

/-- The measure of whole multiples of a duration is their greatest common divisor times the duration. -/
theorem measureOf_mul (ns : List Nat) {d : Rat} (hd : 0 < d) :
    measureOf (ns.map fun n : Nat => (n : Rat) * d) = (ns.foldl Nat.gcd 0 : Nat) * d := by
  have h : ∀ (k : Nat), (ns.map fun n : Nat => (n : Rat) * d).foldl commonMeasure (k * d) = (ns.foldl Nat.gcd k : Nat) * d := by
    induction ns with
    | nil => intro k; rfl
    | cons n rest ih =>
      intro k
      simp only [List.map_cons, List.foldl_cons]
      rw [commonMeasure_mul k n hd, ih]
  simpa [measureOf] using h 0

/-- Positive durations are whole multiples of one duration. -/
theorem exists_common_duration (runs : List Rat) (h : ∀ x ∈ runs, 0 < x) :
    ∃ (d : Rat) (ns : List Nat), 0 < d ∧ (∀ n ∈ ns, 0 < n) ∧ runs = ns.map fun n : Nat => (n : Rat) * d := by
  induction runs with
  | nil => exact ⟨1, [], one_pos, fun n hn => absurd hn List.not_mem_nil, rfl⟩
  | cons x rest ih =>
    obtain ⟨d, ns, hd, hns, hr⟩ := ih fun y hy => h y (List.mem_cons_of_mem _ hy)
    have hx : 0 < x / d := div_pos (h x (List.mem_cons_self ..)) hd
    have hq : ((x / d).den : Rat) ≠ 0 := by exact_mod_cast (x / d).den_ne_zero
    have hp : (((x / d).num.natAbs : Nat) : Rat) = x / d * (x / d).den := by
      rw [← Int.cast_natCast, Int.natAbs_of_nonneg (Rat.num_nonneg.mpr hx.le), Rat.mul_den_eq_num]
    refine ⟨d / (x / d).den, (x / d).num.natAbs :: ns.map (· * (x / d).den), ?_, ?_, ?_⟩
    · exact div_pos hd (by exact_mod_cast (x / d).den_pos)
    · intro n hn
      rcases List.mem_cons.mp hn with rfl | hn
      · exact Int.natAbs_pos.mpr (Rat.num_pos.mpr hx).ne'
      · obtain ⟨k, hk, rfl⟩ := List.mem_map.mp hn
        exact Nat.mul_pos (hns k hk) (x / d).den_pos
    · rw [hr, List.map_cons, List.map_map, hp]
      congr 1
      · field_simp
      · apply List.map_congr_left
        intro n _
        simp only [Function.comp, Nat.cast_mul]
        generalize ((x / d).den : Rat) = q at hq
        field_simp

end Sys2Proof.Machine
end

