-- ==== Sys2Proof/Laws/Reads.lean ====
section
/-!
SUPPORT. What reads through correction leave of a state (R3, R20, R22), and that WRITE makes exactly the findings of the words it
writes in part (R16).
-/

set_option Elab.async false

namespace Sys2Proof.Machine

/-- Two states that differ at most in the store's bytes and upsets. -/
def AlikeBesideBytes (s u : State) : Prop :=
  u = { s with store := { s.store with mem := u.store.mem, upsets := u.store.upsets } }

/-- A read of a word of a buffer in use makes the same findings in states alike beside the bytes in which its condition is the same
(R3, R20, R22). -/
theorem readWord_alike {s u : State} {w : WordNo} (h : AlikeBesideBytes s u) (hc : u.store.condition w = s.store.condition w)
    (hf : (s.store.buffer (bufferOf w)).state ≠ .free) : AlikeBesideBytes (readWord w s).2 (readWord w u).2 := by
  unfold AlikeBesideBytes at h ⊢
  generalize u.store.mem = m at h; generalize u.store.upsets = x at h
  subst h
  cases h2 : s.store.condition w with
  | clean => rw [readWord_clean h2, readWord_clean (hc.trans h2)]
  | singleUpset => rw [readWord_single h2, readWord_single (hc.trans h2)]; rfl
  | doubleUpset =>
    rw [readWord_double h2, readWord_double (hc.trans h2)]
    simp only [uncorrectableFinding]
    rw [if_neg hf, if_neg (by exact hf)]
    unfold offerDamaged
    by_cases h3 : w ∈ s.store.damagedWords
    · rw [if_pos (by exact h3), if_pos (by exact h3)]; rfl
    · by_cases h4 : s.store.damagedWords.length < Config.damagedCapacity
      · rw [if_neg (by exact h3), if_pos (by exact h4), if_neg (by exact h3), if_pos (by exact h4)]; rfl
      · rw [if_neg (by exact h3), if_neg (by exact h4), if_neg (by exact h3), if_neg (by exact h4)]; rfl

/-- A read of a word of a buffer in use leaves every other word's condition as it was (R20, R22). -/
theorem readWord_condition_of_ne {s : State} {w v : WordNo} (hv : v ≠ w) (hf : (s.store.buffer (bufferOf w)).state ≠ .free) :
    (readWord w s).2.store.condition v = s.store.condition v := by
  cases h2 : s.store.condition w with
  | clean => rw [readWord_clean h2]
  | singleUpset => rw [readWord_single h2]; simp only [correctableFinding, countAll_store]; rw [Store.condition_clearUpset, if_neg hv]
  | doubleUpset =>
    rw [readWord_double h2]
    simp only [uncorrectableFinding]
    rw [if_neg hf]
    unfold offerDamaged
    (repeat' split) <;> simp [Store.condition, Store.upsetAt, Store.setBuffer]

/-- A read of a word of a buffer in use leaves every buffer's state as it was (R22). -/
theorem readWord_buffer_state {s : State} {w : WordNo} (b : BufferId) (hf : (s.store.buffer (bufferOf w)).state ≠ .free) :
    ((readWord w s).2.store.buffer b).state = (s.store.buffer b).state := by
  cases h2 : s.store.condition w with
  | clean => rw [readWord_clean h2]
  | singleUpset => rw [readWord_single h2]; rfl
  | doubleUpset =>
    rw [readWord_double h2]
    simp only [uncorrectableFinding]
    rw [if_neg hf]
    have key : ((s.store.setBuffer (bufferOf w) { s.store.buffer (bufferOf w) with damaged := true }).buffer b).state =
        (s.store.buffer b).state := by
      by_cases hb : b = bufferOf w
      · subst hb; simp [Store.buffer_setBuffer_self]
      · simp [Store.buffer_setBuffer_of_ne _ hb]
    unfold offerDamaged
    (repeat' split) <;> exact key

/-- WRITE leaves, beside the bytes and the upsets, what the reads of the words written in part leave (R15, R16). -/
theorem writeWords_alike {b : BufferId} {o : BufferState} (hof : o ≠ .free) (offset : Nat) (data : List Byte) :
    ∀ (ks : List Nat) (s u : State), AlikeBesideBytes s u → ks.Nodup → (∀ k ∈ ks, k < 32) →
    (∀ k ∈ ks, u.store.condition (wordOf b k) = s.store.condition (wordOf b k)) → (s.store.buffer b).state = o →
    AlikeBesideBytes (readWords ((ks.filter fun k => !coversWord k offset data.length).map (wordOf b)) s).2
      (writeWords b offset data ks u) := by
  intro ks
  induction ks with
  | nil => intro s u h _ _ _ _; exact h
  | cons k rest ih =>
    intro s u h hn hl hc hb
    have hne : ∀ j ∈ rest, wordOf b j ≠ wordOf b k := by
      intro j hj e
      have h1 := hl j (List.mem_cons_of_mem _ hj)
      have h2 := hl k (List.mem_cons_self ..)
      have h3 : j ≠ k := by rintro rfl; exact (List.nodup_cons.mp hn).1 hj
      simp only [wordOf, Fin.mk.injEq] at e; omega
    have hfree : (s.store.buffer (bufferOf (wordOf b k))).state ≠ .free := by rw [bufferOf_wordOf, hb]; exact hof
    have hub : (u.store.buffer b).state = o := by
      unfold AlikeBesideBytes at h; rw [h]; exact hb
    have hfreeu : (u.store.buffer (bufferOf (wordOf b k))).state ≠ .free := by rw [bufferOf_wordOf, hub]; exact hof
    have hck := hc k (List.mem_cons_self ..)
    show AlikeBesideBytes _ (writeWords b offset data rest (writeOneWord b k offset data u))
    rw [List.filter_cons]
    split
    · rename_i hcov
      have hcov' : coversWord k offset data.length = false := by simpa using hcov
      refine ih (readWord (wordOf b k) s).2 _ ?_ (List.nodup_cons.mp hn).2 (fun j hj => hl j (List.mem_cons_of_mem _ hj)) ?_ ?_
      · have ha := readWord_alike h hck hfree
        unfold writeOneWord; simp only [hcov']
        simp only [Bool.false_eq_true, if_false]
        split
        · exact ha
        · unfold AlikeBesideBytes at ha ⊢; rw [ha]; rfl
      · intro j hj
        rw [readWord_condition_of_ne (hne j hj) hfree, ← hc j (List.mem_cons_of_mem _ hj)]
        unfold writeOneWord; simp only [hcov']
        simp only [Bool.false_eq_true, if_false]
        split
        · exact readWord_condition_of_ne (hne j hj) hfreeu
        · simp only []; rw [Store.condition_writeWord_of_ne _ (hne j hj)]; exact readWord_condition_of_ne (hne j hj) hfreeu
      · rw [readWord_buffer_state b hfree]; exact hb
    · rename_i hcov
      have hcov' : coversWord k offset data.length = true := by simpa using hcov
      refine ih s _ ?_ (List.nodup_cons.mp hn).2 (fun j hj => hl j (List.mem_cons_of_mem _ hj)) ?_ hb
      · unfold writeOneWord; simp only [hcov', if_true]
        unfold AlikeBesideBytes at h ⊢; rw [h]; rfl
      · intro j hj
        rw [← hc j (List.mem_cons_of_mem _ hj)]
        unfold writeOneWord; simp only [hcov', if_true]
        rw [Store.condition_writeWord_of_ne _ (hne j hj)]

/-- The words of a span are those from its first to its last word (R15, R17). -/
theorem spanWords_wordsOf (b : BufferId) (offset count : Nat) :
    (spanWords offset count).map (wordOf b) = wordsOf b (offset / 8) ((offset + count - 1) / 8) := by
  simp only [spanWords, wordsOf, List.map_map]
  rfl

end Sys2Proof.Machine
end

