-- ==== Sys2Proof/Tests/Slice0.lean ====
section
/-!
SUPPORT. Small checks of the model on values that the spec gives, and for every obligation with hypotheses a concrete state and
operands that meet them all together, one for each of its clauses.
-/

set_option Elab.async false

namespace Sys2Proof.Tests

open Sys2Proof.Machine

/-! ### Small states -/

/-- The part after the start-up clear, every port selected and awaiting a command code. -/
def ready : State := { State.reset with clearing := false, ports := PerMaster.replicate ⟨true, .code, ⟨24, 12, true⟩⟩ }

def withLine (state : LineState) (mode : RateMode) (s : State) : State :=
  { s with line := { s.line with
    state := state, want := MasterSet.singleton .a, idle := 22, settings := { s.line.settings with rateMode := mode } } }

/-- `ready` with the line UP at the fixed code, wanted by A; A owns 0x21, B owns 0x34, and B, C and D have joined 0xE5. -/
def up : State :=
  { withLine (.up 0 0) .fixed ready with
    table := [⟨0x21, MasterSet.singleton .a⟩, ⟨0x34, MasterSet.singleton .b⟩, ⟨0xE5, ⟨false, true, true, true⟩⟩] }

def withBuffer (b : BufferId) (r : BufferRecord) (s : State) : State :=
  { s with store := { s.store.setBuffer b r with freeQueue := s.store.freeQueue.erase b } }

def withUpset (w : WordNo) (double : Bool) (s : State) : State :=
  { s with store := { s.store with upsets := [⟨w, double, 0⟩] } }

def withTransaction (m : Master) (t : Transaction) (s : State) : State := setTransaction m t s

def withRunning (r : Running) (s : State) : State := { s with jobs := { s.jobs with running := some r } }

def withWire (w : Wire) (s : State) : State := { s with transmitter := { s.transmitter with wire := w } }

def withFrame (f : Frame) (s : State) : State := { s with receiver := some f }

/-- The next state of an outcome, and the state of reset for any other. -/
def next (o : Host.Outcome State Fault Refusal) : State :=
  match o with
  | .next t => t
  | _ => State.reset

/-- The answer that stands on a port after a step. -/
def answerOf (m : Master) (o : Host.Outcome State Fault Refusal) : Option (List Byte) :=
  match ((next o).ports.get m).transaction with
  | .answer bytes => some bytes
  | _ => none

/-- Whether no attempt is due. -/
def settles (s : State) : Bool :=
  match s.jobs.running with
  | some ⟨_, _, .due _ _⟩ => false
  | _ => true

theorem settled_of {s : State} (h : settles s = true) : Settled s := by
  intro r hr b k hd
  obtain ⟨j, n, d⟩ := r
  subst hd
  simp [settles, hr] at h

theorem ready_of {m : Master} {code : Byte} {args : List Byte} {s : State}
    (h : (!s.clearing && awaits (s.ports.get m) code args && settles s) = true) : Ready m code args s := by
  simp only [Bool.and_eq_true, Bool.not_eq_true'] at h
  exact ⟨h.1.1, h.1.2, settled_of h.2⟩

/-- A REQUEST from 0x21 to 0x50, sequence 1, without payload. -/
def request : Header := ⟨0x50, 0x21, 0x20, 1, 0⟩

/-- Job 0 of A: a SEND of buffer 0, an AWAIT of 100 ct, and END. -/
def job : Job :=
  ⟨.a, 0, [⟨.send 0, some request⟩, ⟨.await 100, none⟩, ⟨.finish, none⟩], 0, 1, 0, none, .none, none, none⟩

def key : SendKey := ⟨0x50, 0x21, 1⟩

/-- A good frame of the header bytes given, without payload. -/
def goodFrame (header : List Byte) (matched : Option Bool) (b : Option BufferId) : Frame :=
  ⟨header, 7, crcOf header, matched, b, [], halfBytes (crcOf header), none⟩

/-- The same frame with a wrong check. -/
def badFrame (matched : Option Bool) (b : Option BufferId) : Frame :=
  { goodFrame [0x34, 0x60, 0x10, 1, 0] matched b with check := [0, 0] }

/-! ### Ill-formed steps -/

theorem test_illFormed_upset : WellFormed (.storeUpset 3072 0) = false := by decide
theorem test_illFormed_unknown : WellFormed (.unknownCommand .a 0x71) = false := by decide
theorem test_illFormed_write : WellFormed (.write .a 0 0 65 [1]) = false := by decide
theorem test_illFormed_submit : WellFormed (.submit .a 1 []) = false := by decide
theorem test_illFormed_runs_empty : WellFormed (.addressCharacter 0x21 true [] 0) = false := by decide +kernel
theorem test_illFormed_runs_zero : WellFormed (.bodyCharacter 0x21 true [64, 0, 64] 0) = false := by decide +kernel
theorem test_illFormed_low : WellFormed (.addressCharacter 0x21 true [64, 64, 64] 1) = false := by decide +kernel
theorem test_illFormed_echo_low : WellFormed (.characterSent 0x400 1) = false := by decide +kernel
theorem test_wellFormed_low :
    WellFormed (.bodyCharacter 0x21 false [128 / 3] 1) = true ∧ WellFormed (.characterSent 0x3FF 1) = true := by decide +kernel

/-! ### Command bytes -/

theorem test_decode_ident : decodeCommand .c 0x01 [] = some (.ident .c) := by decide
theorem test_decode_write :
    decodeCommand .b 0x33 [0, 6, 0, 3, 0, 1, 0xAB] = some (.write .b 6 3 1 [0xAB]) := by decide
theorem test_decode_lineSet :
    decodeCommand .a 0x12 [0, 11, 0xFF, 0xFF, 6, 2, 3, 12, 14, 10, 0, 0, 8, 1] =
      some (.lineSet .a ⟨0, 11, 0xFFFF, 6, 2, 3, 12, 14, 10, 0, 0, 8, 1⟩) := by decide
theorem test_decode_submit :
    decodeCommand .a 0x40 [2, 1, 0, 7, 0, 5, 0, 0, 0] = some (.submit .a 2 [⟨1, 0, 7, 0⟩, ⟨5, 0, 0, 0⟩]) := by decide
theorem test_decode_incomplete : decodeCommand .a 0x20 [] = none := by decide
theorem test_decode_unknown : decodeCommand .a 0xFF [] = none := by decide

/-! ### Values that the spec gives -/

theorem test_check : crcOf [0x31, 0x32, 0x33, 0x34, 0x35, 0x36, 0x37, 0x38, 0x39] = 0x29B1 := by decide +kernel

/-- Eight samples of 2.01 µs measure 497,512 bit/s: codes 3 and 9 match (sequence 1). -/
theorem test_measurement : matchedCodes [32, 32, 32, 32, 32, 32, 33, 32] = [3, 9] := by decide +kernel

/-- Data byte 0x06 with mark bit 0 gives a sample of two bit times (R76). -/
theorem test_sample : sampleOf [128, 128, 384] = some 128 := by decide +kernel

/-- A character at code 2, 375,000 bit/s: its bit time of 42 2/3 REFCLK cycles is a sample (R72, R76). -/
theorem test_sample_thirds : sampleOf [128 / 3, 128 / 3, 128, 256 / 3, 256 / 3] = some (128 / 3) := by decide +kernel

/-- Of back-to-back characters at 64 cycles only the runs up to the last rise within 11 bit times count (R76). -/
theorem test_sample_backToBack : characterRuns [64, 128, 64, 448, 128, 64, 64] = [64, 128, 64] := by decide +kernel
theorem test_sample_unusable : sampleOf [640] = none := by decide +kernel

theorem test_backoff : backoffOf ⟨0x50, 0x21, 0x20, 1, 0⟩ 1 = 4 := by decide +kernel
theorem test_characterBits : (⟨true, 0x21⟩ : TxCharacter).bits = 1602 := by decide +kernel

theorem test_lineGet : answerOf .a (exec (.lineGet .a) ready) =
    some [0, 0, 0, 11, 0xFF, 0xFF, 6, 2, 3, 12, 14, 10, 0, 0, 8, 1] := by decide +kernel
theorem test_ident : answerOf .d (exec (.ident .d) ready) = some [0, 0, 0x4C, 0x41, 0x04, 0x48, 0x01, 3] := by
  decide +kernel
theorem test_wantLine_fixed : answerOf .a (exec (.wantLine .a) ready) = some [0, 0, 3] := by decide +kernel
theorem test_wantLine_learn : answerOf .a (exec (.wantLine .a) { ready with
    line := { ready.line with settings := { ready.line.settings with rateMode := .learn } } }) = some [0, 0, 1] := by
  decide +kernel
theorem test_lineState : answerOf .a (exec (.lineState .a) { ready with line := { ready.line with
    state := .up 0 0, want := ⟨true, false, true, false⟩, learned := 3,
    settings := { ready.line.settings with rateMode := .learn } } }) =
      some [0, 0, 3, 3, 5, 0, 0xFF, 0, 0xFF, 0xFF, 0] := by decide +kernel
theorem test_alloc : (next (exec (.alloc .a) ready)).store.freeQueue.head? = some 1 := by decide +kernel
theorem test_write : (next (exec (.write .a 0 3 4 [1, 2, 0, 4]) (withBuffer 0 ⟨.owned .a, false⟩ ready))).store.mem =
    [(3, 1), (4, 2), (6, 4)] := by decide +kernel
/-- Sequence 5: the part of the write that meets the double upset is abandoned and the buffer is damaged. -/
theorem test_write_abandons :
    let t := next (exec (.write .b 6 0 13 (List.replicate 13 7))
      (withUpset 193 true (withBuffer 6 ⟨.owned .b, false⟩ ready)))
    t.store.buffer 6 = ⟨.owned .b, true⟩ ∧ t.store.damagedWords = [193] ∧ t.store.mem.length = 8 ∧
      attnLow .b t = true ∧ attnLow .a t = false := by decide +kernel
theorem test_portReset_order :
    (next (exec (.portReset .b) (withBuffer 9 ⟨.inJob .b 3, false⟩ (withBuffer 8 ⟨.owned .b, false⟩
      (withBuffer 7 ⟨.inJob .b 2, false⟩ ready))))).store.freeQueue.drop 93 = [7, 8, 9] := by decide +kernel
theorem test_grant_sends :
    let s := next (exec .grant { withBuffer 0 ⟨.inJob .a 0, false⟩ up with
      jobs := { up.jobs with outbound := ⟨[job], [], [], []⟩ } })
    s.jobs.running.map Running.doing = some (.due 0 request) ∧ s.transmitter.waiting = none ∧
      (takeAttempt s).transmitter.waiting.map Attempt.backoff = some 0 ∧
      (next (exec .attemptBeginsSending s)).transmitter.wire.sendsJob = true := by decide +kernel

/-- A job granted, and in the same moment the end of a HOLD from its station: the job runs, and its SEND fails HELD (R147). With the
HOLD taken first no grant is made, and with line time to pass before the frame end the attempt has begun and stays (R148). -/
theorem test_grant_before_hold :
    let hold := goodFrame [0x21, 0x50, 0x40, 1, 0] (some true) none
    let s := withFrame hold { withBuffer 0 ⟨.inJob .a 0, false⟩ up with
      jobs := { up.jobs with outbound := ⟨[job], [], [], []⟩ } }
    let granted := next (exec .frameEnd (next (exec .grant s)))
    let held := next (exec .attemptBeginsSending granted)
    let later := next (exec .frameEnd (next (exec .grant { s with line := { s.line with idle := 21 } })))
    granted.jobs.running.isSome = true ∧ granted.holds = [⟨0x50, 11264⟩] ∧
      (held.jobs.completions.get .a).map Completion.outcome = [.held] ∧ held.jobs.running = none ∧
      (next (exec .grant (next (exec .frameEnd s)))).jobs.running = none ∧
      later.transmitter.waiting.isSome = true ∧ later.holds = [⟨0x50, 11264⟩] := by decide +kernel
theorem test_responseTimer_late :
    (next (exec .responseTimerExpiry (withRunning ⟨{ job with index := 1 }, 45056, .await key 1100⟩ up))).delivery.late.get .a
      = some key := by decide +kernel
theorem test_hold_replaces :
    takeHold 9 100 [⟨1, 5⟩, ⟨2, 4⟩, ⟨3, 4⟩, ⟨4, 9⟩, ⟨5, 9⟩, ⟨6, 9⟩, ⟨7, 9⟩, ⟨8, 9⟩] =
      [⟨1, 5⟩, ⟨3, 4⟩, ⟨4, 9⟩, ⟨5, 9⟩, ⟨6, 9⟩, ⟨7, 9⟩, ⟨8, 9⟩, ⟨9, 100⟩] := by decide +kernel
/-- A stop bit that reads 0: the end gap counts from RXD's return to 1, the access gap from the stop bit's end (R48). -/
theorem test_low_delays_the_frameEnd :
    let t := next (exec (.addressCharacter 0x34 false [64] 13) up)
    t.line.low = 13 ∧ t.line.idle = 0 ∧ t.line.access = 0 ∧ (lineTime 14 t).line.idle = 1 ∧
      (lineTime 14 t).line.low = 0 ∧ (lineTime 14 t).line.access = 14 ∧ endGapWait t = 35 := by decide +kernel
/-- A character that arrives in the turnaround delay: only what the delay still lacks after it passes at the release (R48, R49). -/
theorem test_turnaround_runs_down :
    let s := withWire (.turnaround ⟨.busy ⟨0x60, 0x34, 7⟩, false, false, 15⟩ 15) up
    (next (exec .deRelease (next (exec (.bodyCharacter 0 true [64] 0) s)))).line.idle = 4 := by decide +kernel
/-- While RESET# is low a port stays DESELECTED whatever CS# does, and its SDO high-impedance (R162). -/
theorem test_resetLow_deselects :
    let s := next (exec (.csFalls .a) (next (exec (.powerOn true) State.reset)))
    (s.ports.get .a).csLow = true ∧ sdoOutput .a s = none ∧ s.clearing = true := by decide +kernel
/-- Assumption log 16: the cut frame's buffer 5 stands before the begun frame's buffer 2 at the free tail. -/
theorem test_eighth_cut_order :
    let f : Frame := ⟨[0x34], 1, 0, some true, some 5, [0x34], [], none⟩
    let s := withFrame f (withLine (.up 0 7) .learn (withBuffer 5 ⟨.filling, false⟩ up))
    let t := next (exec (.addressCharacter 0x34 true [64] 0)
      { s with store := { s.store with freeQueue := [2, 0] } })
    t.line.state = .seek [] ∧ t.receiver = none ∧ t.store.freeQueue = [0, 5, 2] := by decide +kernel
theorem test_counter_counts_its_own :
    (next (exec (.read .a 0 0 1) (withUpset 0 false (withBuffer 0 ⟨.owned .a, false⟩ ready)))).counters =
      PerMaster.replicate ⟨0, 0, 0, 0, 0, 0, 0, 1, 0⟩ := by decide +kernel

theorem test_counter_saturates : countUp 255 = 255 ∧ countUp 254 = 255 := by decide +kernel

/-! ### Witnesses: the transaction and the port commands -/

theorem test_witness_StepTakesTheFront : State.reset.pending = [] := rfl

theorem test_witness_PowerOnAndTheClear :
    State.reset.clearing = true ∧ State.reset.resetLow = false ∧
      (next (exec (.powerOn true) ready)).resetLow = true := by decide +kernel

theorem test_witness_NotReadyDuringTheClear :
    let s := { ready with clearing := true }
    commandBytes (.ident .a) = some (.a, 0x01, []) ∧ s.clearing = true ∧ awaits (s.ports.get .a) 0x01 [] = true := by
  decide +kernel

theorem test_witness_TransactionBeginsAndEnds :
    (State.reset.ports.get .a).csLow = false ∧ (State.reset.ports.get .a).transaction = .deselected ∧
      (ready.ports.get .a).transaction = .code ∧
      ((withTransaction .a (.arguments 0x24 []) ready).ports.get .a).transaction = .arguments 0x24 [] ∧
      ((withTransaction .a (.answer [0x0D]) ready).ports.get .a).transaction = .answer [0x0D] ∧
      ((withTransaction .a (.answer [0, 0x0D]) ready).ports.get .a).transaction = .answer (0 :: [0x0D]) := by decide +kernel

theorem test_witness_BytesBeforeTheLast :
    (ready.ports.get .a).transaction = .code ∧ expectedArguments 0x20 [] = some 1 ∧
      ((withTransaction .a (.arguments 0x33 [0, 6, 0, 0, 0]) ready).ports.get .a).transaction =
        .arguments 0x33 [0, 6, 0, 0, 0] ∧
      expectedArguments 0x33 ([0, 6, 0, 0, 0] ++ [64]) = some 70 ∧
      ((withTransaction .a .spent ready).ports.get .a).transaction.received = none ∧
      (State.reset.ports.get .a).transaction.received = none ∧
      isCommandCode 0x00 = false ∧ isCommandCode 0xFF = false := by decide +kernel

theorem test_witness_LastByteTakesTheCommand :
    WellFormed (.tableRead .a 15) = true ∧ commandBytes (.tableRead .a 15) = some (.a, 0x24, [] ++ [15]) ∧
      ((withTransaction .a (.arguments 0x24 []) ready).ports.get .a).transaction = .arguments 0x24 [] ∧
      WellFormed (.ident .a) = true ∧ commandBytes (.ident .a) = some (.a, 0x01, []) ∧
      (ready.ports.get .a).transaction = .code := by decide +kernel

theorem test_witness_ReadingCommands :
    Ready .a 0x01 [] ready ∧ Ready .a 0x03 [] ready ∧ Ready .a 0x13 [] ready ∧ Ready .a 0x71 [] ready ∧
      Ready .a 0x43 [] ready ∧ Ready .a 0x36 [] ready := by
  refine ⟨?_, ?_, ?_, ?_, ?_, ?_⟩ <;> exact ready_of (by decide +kernel)

theorem test_witness_PortSetWritesTheRecord :
    Ready .a 0x02 [1, 1, 0] ready ∧ Ready .a 0x02 [96, 16, 1] ready ∧ Ready .a 0x02 [97, 16, 1] ready := by
  refine ⟨?_, ?_, ?_⟩ <;> exact ready_of (by decide +kernel)

theorem test_witness_LineStateReadsAndClears : Ready .a 0x14 [] up := ready_of (by decide +kernel)

/-! ### Witnesses: the line controller -/

def learning : State :=
  { ready with line := { ready.line with settings := { ready.line.settings with rateMode := .learn } } }

theorem test_witness_WantLineMakesTheEntry :
    Ready .a 0x10 [] ready ∧ Ready .a 0x10 [] learning ∧ Ready .b 0x10 [] up ∧
      (ready.line.want.isEmpty = true ∧ ready.line.state = .down ∧ ready.line.settings.rateMode = .fixed) ∧
      (learning.line.want.isEmpty = true ∧ learning.line.state = .down ∧ learning.line.settings.rateMode = .learn) ∧
      up.line.want.isEmpty = false := by
  refine ⟨ready_of ?_, ready_of ?_, ready_of ?_, ?_⟩ <;> decide +kernel

theorem test_witness_UnwantLineTakesTheLineDown :
    Ready .a 0x11 [] up ∧ Ready .b 0x11 [] up ∧ Ready .a 0x11 [] ready ∧ Ready .a 0x11 [] (withLine (.seek [64]) .learn ready) ∧
      (MasterSet.erase up.line.want .a).isEmpty = true ∧ up.line.state.isUp = true ∧
      (MasterSet.erase up.line.want .b).isEmpty = false ∧ ready.line.state = .down ∧
      (MasterSet.erase (withLine (.seek [64]) .learn ready).line.want .a).isEmpty = true ∧
      ((withLine (.seek [64]) .learn ready).line.state.isUp = false ∧ (withLine (.seek [64]) .learn ready).line.state ≠ .down) := by
  refine ⟨ready_of ?_, ready_of ?_, ready_of ?_, ready_of ?_, ?_⟩ <;> decide +kernel

def defaults : SettingsBytes := ⟨0, 11, 0xFFFF, 6, 2, 3, 12, 14, 10, 0, 0, 8, 1⟩

theorem test_settings_boundaries :
    (settingsOf { defaults with accessGap := 4, tenureExponent := 16, receiveReserve := 32 }).isSome = true ∧
      settingsOf { defaults with accessGap := 3 } = none ∧ settingsOf { defaults with receiveReserve := 33 } = none ∧
      settingsOf { defaults with rateMode := 1, permitted := 0 } = none ∧
      (settingsOf { defaults with permitted := 0 }).isSome = true := by decide +kernel

theorem test_witness_SettingsRanges : settingsOf defaults = some Settings.reset ∧ Settings.reset.inRange := by
  refine ⟨by decide +kernel, ?_⟩
  unfold Settings.inRange
  decide

theorem test_witness_LineSetRestartsTheLine :
    Ready .a 0x12 (bytesOfSettings { defaults with sync := 3 }) up ∧ settingsOf { defaults with sync := 3 } = none ∧
      Ready .a 0x12 (bytesOfSettings defaults) up ∧ Ready .b 0x12 (bytesOfSettings defaults) up ∧
      Ready .a 0x12 (bytesOfSettings { defaults with rateMode := 1 }) up ∧ Ready .a 0x12 (bytesOfSettings defaults) ready ∧
      settingsOf defaults = some Settings.reset ∧
      settingsOf { defaults with rateMode := 1 } = some { Settings.reset with rateMode := .learn } ∧
      (up.line.want.isEmpty = false ∧ up.line.want ≠ MasterSet.singleton .b) ∧
      (up.line.want = MasterSet.singleton .a ∧ up.line.state.isUp = true) ∧
      (ready.line.want.isEmpty = true ∧ ready.line.state = .down) ∧
      Ready .a 0x12 (bytesOfSettings defaults) (withLine (.qualify 3 1 5) .learn ready) ∧
      (withLine (.qualify 3 1 5) .learn ready).line.want = MasterSet.singleton .a ∧
      (withLine (.qualify 3 1 5) .learn ready).line.state.isUp = false := by
  refine ⟨ready_of ?_, ?_, ready_of ?_, ready_of ?_, ready_of ?_, ready_of ?_, ?_, ?_, ?_, ?_, ?_, ready_of ?_, ?_⟩ <;>
    decide +kernel

theorem test_witness_RelearnSeeks :
    Ready .b 0x15 [] up ∧ up.line.settings.rateMode = .fixed ∧ Ready .a 0x15 [] learning ∧ learning.line.state = .down ∧
      Ready .b 0x15 [] (withLine (.up 0 7) .learn ready) ∧ (withLine (.up 0 7) .learn ready).line.state.isUp = true ∧
      (withLine (.up 0 7) .learn ready).line.settings.rateMode = .learn ∧
      Ready .b 0x15 [] (withLine (.qualify 3 1 5) .learn ready) ∧
      (withLine (.qualify 3 1 5) .learn ready).line.state.isUp = false := by
  refine ⟨ready_of ?_, ?_, ready_of ?_, ?_, ready_of ?_, ?_, ?_, ready_of ?_, ?_⟩ <;> decide +kernel

/-- Seven samples of 64 REFCLK cycles, a line rate of 250,000 bit/s, which codes 1 and 11 name. -/
def sevenSamples : List Rat := List.replicate 7 64

theorem test_witness_RateIsMeasured :
    let seeking (run : List Rat) := withLine (.seek run) .learn ready
    let runs : List Rat := [64, 128, 64]
    let noneAllowed := { seeking sevenSamples with
      line := { (seeking sevenSamples).line with settings := { Settings.reset with permitted := 0 } } }
    (measurementMatches sevenSamples 1 = true ∧ measurementMatches sevenSamples 11 = true) ∧
      (runs ≠ [] ∧ (∀ x ∈ runs, 0 < x) ∧ runs = [(1 : Nat) * 64, (2 : Nat) * 64, (1 : Nat) * 64]) ∧
      ((seeking sevenSamples).line.state = .seek sevenSamples ∧ (seeking sevenSamples).transmitter.wire = .none ∧
        (seeking sevenSamples).receiver = none ∧ (withFrame (badFrame none none) (seeking [])).line.state = .seek [] ∧
        (withFrame (badFrame none none) (seeking [])).receiver ≠ none ∧ noneAllowed.line.state = .seek sevenSamples) ∧
      (characterRuns [640]).length ≤ 1 ∧ (2 ≤ (characterRuns runs).length ∧ (64 : Rat) = measureOf (characterRuns runs)) ∧
      (sevenSamples ++ [64]).all (fun y => decide (49 * 64 ≤ 50 * y ∧ 50 * y ≤ 51 * 64)) = true ∧
      (sevenSamples ++ [64]).length = 8 ∧ samplesAgree (sevenSamples ++ [128]) = false ∧
      (measurementMatches (sevenSamples ++ [64]) 1 = true ∧ ready.line.settings.permitted.getLsbD 1 = true ∧
        ∀ d, measurementMatches (sevenSamples ++ [64]) d = true → (1 : RateCode) ≤ d) ∧
      (∀ c, measurementMatches (List.replicate 8 1000) c = false) ∧ samplesAgree (List.replicate 8 1000) = true ∧
      (∀ c : RateCode, noneAllowed.line.settings.permitted.getLsbD c.val = false) := by decide +kernel

theorem test_witness_FrameReportsMoveTheLine :
    let good := goodFrame [0x34, 0x60, 0x10, 1, 0] none none
    let other := goodFrame [0x35, 0x60, 0x10, 1, 0] (some false) none
    let bad := badFrame none none
    let qualifies (n : Nat) (f : Frame) := withFrame f (withLine (.qualify 3 n 9) .learn ready)
    let isUp (n : Nat) (f : Frame) := withFrame f (withLine (.up 0 n) .learn ready)
    frameError good = none ∧ good.buffer = none ∧ frameError bad = some .crc ∧ bad.buffer = none ∧
      frameError other = none ∧ other.matched = some false ∧ other.buffer = none ∧
      (qualifies 0 good).line.state = .qualify 3 0 9 ∧ (qualifies 1 good).line.state = .qualify 3 1 9 ∧
      (qualifies 1 bad).receiver = some bad ∧ (isUp 6 other).line.state = .up 0 6 ∧
      (isUp 6 bad).receiver = some bad ∧ (isUp 7 bad).line.state = .up 0 7 ∧
      (isUp 7 bad).line.settings.rateMode = .learn ∧ up.receiver = none ∧ other.matched ≠ some true ∧
      ((withFrame other up).receiver = some other ∧ (withFrame other up).line.state = .up 0 0 ∧
        up.line.settings.rateMode = .fixed) ∧
      ((withFrame bad (withLine (.seek []) .learn ready)).receiver = some bad ∧
        (withFrame bad (withLine (.seek []) .learn ready)).line.state = .seek []) := by decide +kernel

theorem test_witness_LineTimersExpire :
    up.line.state = .up 0 0 ∧ up.line.settings.rateMode = .fixed ∧
      (withLine (.up 5 1) .learn ready).line.state = .up 5 1 ∧
      (withLine (.up 5 1) .learn ready).line.settings.rateMode = .learn ∧
      (withLine (.qualify 3 1 9) .learn ready).line.state = .qualify 3 1 9 := by decide +kernel

/-! ### Witnesses: the address table -/

theorem test_witness_ClaimAndDrop :
    Ready .a 0x20 [0x01] up ∧ Ready .a 0x20 [0xDF] up ∧ Ready .a 0x20 [0x00] up ∧ Ready .a 0x20 [0xE0] up ∧
      Ready .a 0x21 [0x21] up ∧ Ready .a 0x21 [0x34] up ∧ Ready .a 0x21 [0xE0] up := by
  refine ⟨?_, ?_, ?_, ?_, ?_, ?_, ?_⟩ <;> exact ready_of (by decide +kernel)

theorem test_witness_JoinAndLeave :
    Ready .a 0x22 [0xE0] up ∧ Ready .a 0x22 [0xFE] up ∧ Ready .a 0x22 [0xFF] up ∧ Ready .b 0x23 [0xE5] up ∧
      Ready .a 0x23 [0xDF] up := by
  refine ⟨?_, ?_, ?_, ?_, ?_⟩ <;> exact ready_of (by decide +kernel)

theorem test_witness_TableReadEntry : Ready .d 0x24 [2] up ∧ Ready .d 0x24 [15] up ∧ Ready .d 0x24 [16] up := by
  refine ⟨?_, ?_, ?_⟩ <;> exact ready_of (by decide +kernel)

/-! ### Witnesses: the frame store -/

theorem test_witness_ReadThroughCorrection :
    ready.store.condition 3071 = .clean ∧ (withUpset 3071 false ready).store.condition 3071 = .singleUpset ∧
      (withUpset 3071 true ready).store.condition 3071 = .doubleUpset ∧
      ((withUpset 3071 true ready).store.buffer (bufferOf 3071)).state = .free ∧
      ((withUpset 0 true (withBuffer 0 ⟨.owned .a, false⟩ ready)).store.buffer (bufferOf 0)).state ≠ .free ∧
      (withUpset 3071 true ready).store.upsets.find? (fun u => u.word = 3071) = some ⟨3071, true, 0⟩ := by decide +kernel

theorem test_witness_UncorrectableFindingIsReported :
    let s := withUpset 31 true (withBuffer 0 ⟨.delivered (MasterSet.singleton .a) (MasterSet.singleton .b), true⟩ ready)
    let full := { s with store := { s.store with damagedWords := (List.finRange 3072).take 16 } }
    s.store.condition 31 = .doubleUpset ∧ (s.store.buffer (bufferOf 31)).state ≠ .free ∧
      full.store.condition 31 = .doubleUpset ∧ (full.store.buffer (bufferOf 31)).state ≠ .free ∧
      (31 : WordNo) ∉ full.store.damagedWords ∧ 16 ≤ full.store.damagedWords.length ∧
      (31 : WordNo) ∈ { s.store with damagedWords := [31] }.damagedWords ∧ s.store.damagedWords.length < 16 := by
  decide +kernel

theorem test_witness_UpsetMovesTheCondition :
    ¬3072 < 3072 ∧ 3071 < 3072 ∧ ready.clearing = false ∧ State.reset.clearing = true ∧
      State.reset.store.condition 5 = .clean ∧ (withUpset 5 false State.reset).store.condition 5 ≠ .clean ∧
      ready.resetLow = false ∧ State.reset.resetLow = false ∧ (withUpset 5 false State.reset).resetLow = false ∧
      (next (exec (.powerOn true) ready)).resetLow = true := by decide +kernel

/-- Bit 9 of word 5 is bit 1 of its second byte, and a second upset of it lets it stand as written (R1, assumption log 10). -/
theorem test_upset_bit :
    let once := next (exec (.storeUpset 5 9) ready)
    let twice := next (exec (.storeUpset 5 9) once)
    let check := next (exec (.storeUpset 5 71) once)
    once.store.condition 5 = .singleUpset ∧ once.store.standing 5 = [0, 2, 0, 0, 0, 0, 0, 0] ∧
      twice.store.condition 5 = .doubleUpset ∧ twice.store.standing 5 = List.replicate 8 0 ∧
      check.store.standing 5 = once.store.standing 5 := by decide +kernel

theorem test_witness_PatrolVisitsOneWord :
    ready.clearing = false ∧ ready.line.settings.patrol = true ∧
      ((withBuffer 0 ⟨.filling, false⟩ ready).store.buffer (bufferOf ready.store.patrolIndex)).state = .filling ∧
      (ready.store.buffer (bufferOf ready.store.patrolIndex)).state ≠ .filling ∧ State.reset.clearing = true := by
  decide +kernel

theorem test_witness_AllocTakesTheHead :
    let atQuota := setPortSettings .a ⟨1, 12, true⟩ (withBuffer 0 ⟨.owned .a, false⟩ ready)
    let atReserve := { ready with store := { ready.store with freeQueue := (List.finRange 96).take 8 } }
    Ready .a 0x30 [] ready ∧ Ready .a 0x30 [] atQuota ∧ Ready .a 0x30 [] atReserve ∧
      (atQuota.ports.get .a).settings.quota ≤ atQuota.store.usage .a ∧
      ready.store.usage .a < (ready.ports.get .a).settings.quota ∧
      atReserve.store.usage .a < (atReserve.ports.get .a).settings.quota ∧
      atReserve.store.freeQueue.length ≤ atReserve.line.settings.receiveReserve ∧
      ready.line.settings.receiveReserve < ready.store.freeQueue.length ∧
      ready.store.freeQueue = 0 :: (List.finRange 96).tail := by
  refine ⟨ready_of ?_, ready_of ?_, ready_of ?_, ?_⟩ <;> decide +kernel

theorem test_witness_FreeAndAdopt :
    Ready .a 0x31 (halfBytes 95) ready ∧ Ready .a 0x31 (halfBytes 96) ready ∧ Ready .a 0x32 (halfBytes 95) ready ∧
      Ready .a 0x32 (halfBytes 96) ready ∧ (95 : BufferId).val = (95 : Half).toNat ∧ 96 ≤ (96 : Half).toNat := by
  refine ⟨ready_of ?_, ready_of ?_, ready_of ?_, ready_of ?_, ?_, ?_⟩ <;> decide +kernel

theorem test_witness_LeavingUse :
    (ready.store.buffer 0).damaged = false ∧ ((withBuffer 0 ⟨.owned .a, true⟩ ready).store.buffer 0).damaged = true ∧
      (1 : BufferId) ≠ 0 := by decide +kernel

theorem test_witness_WriteStoresItsBytes :
    let s := withBuffer 95 ⟨.owned .a, false⟩ ready
    let hurt := withBuffer 95 ⟨.owned .a, true⟩ ready
    let upset := withUpset 3070 true s
    let bytes (offset count : Half) (n : Nat) := halfBytes 95 ++ halfBytes offset ++ halfBytes count ++ List.replicate n 7
    Ready .a 0x33 (halfBytes 96 ++ halfBytes 0 ++ halfBytes 1 ++ [7]) ready ∧
      Ready .a 0x33 (bytes 0 0 0) s ∧ Ready .a 0x33 (bytes 193 64 64) s ∧ Ready .a 0x33 (bytes 192 64 64) ready ∧
      Ready .a 0x33 (bytes 192 64 64) hurt ∧ Ready .a 0x33 (bytes 192 64 64) s ∧ Ready .a 0x33 (bytes 244 12 12) upset ∧
      Ready .a 0x33 (bytes 241 7 7) upset ∧
      ¬(193 : Half).toNat + (64 : Half).toNat ≤ 256 ∧ (192 : Half).toNat + (64 : Half).toNat ≤ 256 ∧
      (ready.store.buffer 95).state ≠ .owned .a ∧ hurt.store.buffer 95 = ⟨.owned .a, true⟩ ∧
      s.store.buffer 95 = ⟨.owned .a, false⟩ ∧ upset.store.buffer 95 = ⟨.owned .a, false⟩ ∧
      Memory.wf upset.store.mem = true ∧ (95 : BufferId).val = (95 : Half).toNat ∧ (64 : Half).toNat ≤ 64 ∧
      (upset.store.condition (wordOf 95 30) = .doubleUpset ∧ ¬(244 ≤ 8 * 30)) ∧
      ((241 : Half).toNat % 8 + (7 : Half).toNat ≤ 8 ∧ upset.store.condition (wordOf 95 (241 / 8)) = .doubleUpset) := by
  refine ⟨ready_of ?_, ready_of ?_, ready_of ?_, ready_of ?_, ready_of ?_, ready_of ?_, ready_of ?_, ready_of ?_, ?_⟩ <;>
    decide +kernel

theorem test_witness_ReadReturnsTheBytes :
    let bytes (n : Half) := halfBytes n ++ halfBytes 255 ++ halfBytes 1
    let held := withBuffer 95 ⟨.delivered MasterSet.empty (MasterSet.singleton .a), true⟩ ready
    let inJob := withBuffer 95 ⟨.inJob .a 255, false⟩ ready
    let owned := withUpset 3071 true (withBuffer 95 ⟨.owned .a, false⟩ ready)
    Ready .a 0x34 (bytes 95) held ∧ Ready .a 0x34 (bytes 95) inJob ∧ Ready .a 0x34 (bytes 95) owned ∧
      Ready .a 0x34 (bytes 96) ready ∧ Ready .a 0x34 (bytes 95) ready ∧
      Ready .a 0x34 (halfBytes 95 ++ halfBytes 255 ++ halfBytes 2) ready ∧
      (255 : Half).toNat + (1 : Half).toNat ≤ 256 ∧ ¬(255 : Half).toNat + (2 : Half).toNat ≤ 256 ∧
      (held.store.buffer 95).state = .delivered MasterSet.empty (MasterSet.singleton .a) ∧
      (MasterSet.singleton .a).get .a = true ∧ (inJob.store.buffer 95).state = .inJob .a 255 ∧
      (owned.store.buffer 95).state = .owned .a ∧ (ready.store.buffer 95).state = .free ∧
      owned.store.condition (wordOf 95 (255 / 8)) = .doubleUpset ∧ inJob.store.condition (wordOf 95 31) = .clean := by
  refine ⟨ready_of ?_, ready_of ?_, ready_of ?_, ready_of ?_, ready_of ?_, ready_of ?_, ?_⟩ <;> decide +kernel

theorem test_witness_ScrubRestores :
    let owned := withBuffer 95 ⟨.owned .a, true⟩ ready
    let isolated := withBuffer 95 ⟨.quarantined, true⟩ ready
    Ready .a 0x35 (halfBytes 95) owned ∧ Ready .a 0x35 (halfBytes 95) isolated ∧ Ready .a 0x35 (halfBytes 95) ready ∧
      Ready .a 0x35 (halfBytes 96) ready ∧ (owned.store.buffer 95).state = .owned .a ∧
      (isolated.store.buffer 95).state = .quarantined ∧ Memory.wf owned.store.mem = true ∧
      (ready.store.buffer 95).state ≠ .owned .a ∧ (ready.store.buffer 95).state ≠ .quarantined := by
  refine ⟨ready_of ?_, ready_of ?_, ready_of ?_, ready_of ?_, ?_⟩ <;> decide +kernel

/-! ### Witnesses: the job engine -/

/-- Buffer 0 OWNED by A with the image of `request` in it. -/
def imaged : State :=
  let s := withBuffer 0 ⟨.owned .a, false⟩ up
  { s with store := { s.store with mem := [(0, 0x50), (1, 0x21), (2, 0x20), (3, 1)] } }

def threeOrders : List OrderBytes := [⟨1, 0, 0, 0⟩, ⟨2, 0, 100, 0⟩, ⟨5, 0, 0, 0⟩]

theorem test_witness_SubmitQueuesTheJob :
    Ready .a 0x40 (3 :: threeOrders.flatMap bytesOfOrder) imaged ∧
      threeOrders.map parseOrder = [Order.send 0, .await 100, .finish].map .ok ∧
      (∀ o ∈ [Order.send 0, .await 100, .finish], ∀ b ∈ o.buffer?, imaged.store.buffer b = ⟨.owned .a, false⟩ ∧
        imaged.store.condition (wordOf b 0) ≠ .doubleUpset ∧ (headerOf (imaged.store.written (wordOf b 0))).bad = false) ∧
      (1 ≤ (3 : Byte).toNat ∧ (3 : Byte).toNat ≤ 8) ∧ jobCount .a imaged < 8 := by
  refine ⟨ready_of ?_, ?_⟩ <;> decide +kernel

theorem test_submit_caches : (((next (exec (.submit .a 3 threeOrders) imaged)).jobs.outbound.get .a).map fun j =>
    j.orders.map JobOrder.header) = [[some request, none, none]] := by decide +kernel

/-- Eight completion entries wait for A. -/
def eightDone : State :=
  { imaged with jobs := { imaged.jobs with completions := ⟨List.replicate 8 ⟨0, .ok, none, 0, .none, none, 0⟩, [], [], []⟩ } }

theorem test_witness_SubmitRefusals :
    let one (buffer flags : Byte) : List OrderBytes := [⟨1, 0, buffer, flags⟩]
    let sends (buffer flags : Byte) := 1 :: (one buffer flags).flatMap bytesOfOrder
    let upset := withUpset 0 true imaged
    let blank := withBuffer 1 ⟨.owned .a, false⟩ ready
    Ready .a 0x40 (0 :: ([] : List OrderBytes).flatMap bytesOfOrder) ready ∧ Ready .a 0x40 (sends 95 1) ready ∧
      Ready .a 0x40 (sends 96 0) ready ∧ Ready .a 0x40 (sends 95 0) ready ∧ Ready .a 0x40 (sends 0 0) eightDone ∧
      Ready .a 0x40 (sends 0 0) upset ∧ Ready .a 0x40 (sends 1 0) blank ∧
      (parseOrder ⟨1, 0, 95, 1⟩ = .badArg ∧ parseOrder ⟨1, 0, 96, 0⟩ = .badBuffer ∧
        parseOrder ⟨1, 0, 95, 0⟩ = .ok (.send 95) ∧ parseOrder ⟨1, 0, 0, 0⟩ = .ok (.send 0) ∧
        parseOrder ⟨1, 0, 1, 0⟩ = .ok (.send 1)) ∧
      (ready.store.buffer 95).state ≠ .owned .a ∧
      ((eightDone.store.buffer 0).state = .owned .a ∧ 8 ≤ jobCount .a eightDone) ∧
      ((upset.store.buffer 0).state = .owned .a ∧ jobCount .a upset < 8 ∧
        ((readWords [wordOf 0 0] upset).2.store.buffer 0).damaged = true) ∧
      ((blank.store.buffer 1).state = .owned .a ∧ jobCount .a blank < 8 ∧
        ((readWords [wordOf 1 0] blank).2.store.buffer 1).damaged = false ∧
        (headerOf (blank.store.written (wordOf 1 0))).destination = 0) := by
  refine ⟨ready_of ?_, ready_of ?_, ready_of ?_, ready_of ?_, ready_of ?_, ready_of ?_, ready_of ?_, ?_⟩ <;> decide +kernel

/-- The bytes of an order at the ends of its argument ranges (R114, R171). -/
theorem test_witness_SubmitRefusals_orders :
    (parseOrder ⟨1, 1, 0, 0⟩ = .badBuffer ∧ (95 : BufferId).val = 256 * (0 : Byte).toNat + (95 : Byte).toNat) ∧
      (parseOrder ⟨2, 0, 8, 0⟩ = .ok (.await 8) ∧ parseOrder ⟨2, 15, 255, 0⟩ = .ok (.await 4095) ∧
        parseOrder ⟨2, 0, 7, 0⟩ = .badArg ∧ parseOrder ⟨2, 16, 0, 0⟩ = .badArg) ∧
      (parseOrder ⟨3, 4, 7, 0⟩ = .ok (.branch .notReplied 7) ∧ parseOrder ⟨3, 4, 8, 0⟩ = .badArg ∧
        parseOrder ⟨3, 0, 0, 0⟩ = .badArg ∧ parseOrder ⟨3, 5, 7, 0⟩ = .badArg ∧
        parseOrder ⟨3, 1, 0, 0⟩ = .ok (.branch .replied 0) ∧ parseOrder ⟨3, 2, 0, 0⟩ = .ok (.branch .busy 0) ∧
        parseOrder ⟨3, 3, 0, 0⟩ = .ok (.branch .silent 0)) ∧
      (parseOrder ⟨4, 0, 1, 0⟩ = .ok (.wait 1) ∧ parseOrder ⟨4, 0, 0, 0⟩ = .badArg ∧
        parseOrder ⟨4, 15, 255, 0⟩ = .ok (.wait 4095) ∧ parseOrder ⟨4, 16, 0, 0⟩ = .badArg) ∧
      (parseOrder ⟨5, 0, 0, 0⟩ = .ok .finish ∧ parseOrder ⟨5, 0, 1, 0⟩ = .badArg) ∧
      parseOrder ⟨0, 0, 0, 0⟩ = .badArg ∧ parseOrder ⟨6, 0, 0, 0⟩ = .badArg ∧ parseOrder ⟨5, 0, 0, 1⟩ = .badArg := by
  decide +kernel

def inWait : State := withRunning ⟨job, 45056, .wait 0⟩ up
def inAwait : State := withRunning ⟨job, 45056, .await key 1100⟩ up
def attempt : Attempt := ⟨[0x50, 0x21, 0x20, 1, 0], 0, false⟩
def inAccess : State := { withRunning ⟨job, 45056, .send⟩ up with transmitter := ⟨.none, some attempt, none⟩ }
def onWire : State := withWire (.turnaround ⟨.job attempt, false, false, 2⟩ 2) (withRunning ⟨job, 45056, .send⟩ up)

/-- `job` with a CANCEL recorded. -/
def cancelled : Job := { job with pendingEnd := some .cancelled }

theorem test_witness_CancelEndsTheJob :
    let queued := { up with jobs := { up.jobs with outbound := ⟨[job], [], [], []⟩ } }
    Ready .a 0x41 [0] queued ∧ ((queued.jobs.outbound.get .a).any fun j => j.tag = 0) = true ∧
      Ready .a 0x41 [0] up ∧ up.jobs.running = none ∧ ((up.jobs.outbound.get .a).any fun j => j.tag = 0) = false ∧
      Ready .a 0x41 [0] inWait ∧ inWait.jobs.running = some ⟨job, 45056, .wait 0⟩ ∧
      Ready .a 0x41 [0] inAwait ∧ inAwait.jobs.running = some ⟨job, 45056, .await key 1100⟩ ∧
      Ready .a 0x41 [0] inAccess ∧ inAccess.transmitter.waiting ≠ none ∧
      Ready .a 0x41 [0] onWire ∧ onWire.transmitter.waiting = none ∧
      (onWire.jobs.running = some ⟨job, 45056, .send⟩ ∧ job.pendingEnd = none ∧ job.master = .a ∧ job.tag = 0) ∧
      Ready .a 0x41 [0] (withRunning ⟨cancelled, 9, .send⟩ onWire) ∧ cancelled.pendingEnd ≠ none ∧ cancelled.tag = 0 := by
  refine ⟨ready_of ?_, ?_, ready_of ?_, ?_, ?_, ready_of ?_, ?_, ready_of ?_, ?_, ready_of ?_, ?_, ready_of ?_, ?_, ?_,
    ready_of ?_, ?_⟩ <;> decide +kernel

theorem test_witness_EndOfAJob :
    let r (index steps : Nat) : Running := ⟨{ job with index := index, steps := steps }, 0, .send⟩
    let sent : Running := ⟨{ job with index := 1, lastSend := some ⟨0x20, key⟩ }, 0, .send⟩
    let told : Running := ⟨{ job with index := 1, lastSend := some ⟨0x10, key⟩ }, 0, .send⟩
    let others : Job := { job with orders := [⟨.branch .silent 7, none⟩, ⟨.wait 4095, none⟩] }
    (withRunning (r 3 1) up).jobs.running = some (r 3 1) ∧ (r 3 1).job.orders[3]? = none ∧
      ((r 2 32).job.orders[2]? = some ⟨.finish, none⟩ ∧ 32 ≤ (r 2 32).job.steps ∧ (r 2 31).job.steps < 32) ∧
      (sent.job.orders[1]? = some ⟨.await 100, none⟩ ∧ sent.job.lastSend = some ⟨0x20, key⟩ ∧
        ((0x10 : Byte) ≠ 0x20 ∧ told.job.lastSend = some ⟨0x10, key⟩) ∧ (r 1 1).job.lastSend = none) ∧
      (others.orders[0]? = some ⟨.branch .silent 7, none⟩ ∧ others.lastAwait ≠ .silent ∧
        { others with lastAwait := .silent }.lastAwait = .silent ∧ others.orders[1]? = some ⟨.wait 4095, none⟩) ∧
      (r 0 0).job.orders[0]? = some ⟨.send 0, some request⟩ := by decide +kernel

theorem test_witness_EndOfAJob_attempts :
    let r : Running := ⟨job, 0, .send⟩
    let s := withRunning r (withBuffer 0 ⟨.inJob .a 0, false⟩ up)
    let fetched (s : State) := readWords (wordsOf 0 0 ((4 + request.length.toNat) / 8)) s
    s.jobs.running = some r ∧ ownerOf s.table 0x22 ≠ some .a ∧ ownerOf s.table request.source = some .a ∧
      (ownerOf s.table 0x21 = some .a ∧ ownerOf s.table 0x34 ≠ none ∧ (0x20 : Byte) ≠ 0x10) ∧
      ownerOf s.table request.destination = none ∧ (∃ e ∈ [(⟨0x50, 5⟩ : HoldEntry)], e.station = request.destination) ∧
      s.holds = [] ∧ ((fetched (withUpset 0 true s)).2.store.buffer 0).damaged = true ∧
      ((fetched s).2.store.buffer 0).damaged = false := by decide +kernel

theorem test_witness_TakeFromQueues :
    let entry : DeliveryEntry := ⟨0, request, 0, false, false, false⟩
    let waiting := { withBuffer 0 ⟨.delivered (MasterSet.singleton .a) MasterSet.empty, false⟩ up with
      delivery := { up.delivery with inbound := ⟨[entry], [], [], []⟩ } }
    Ready .a 0x42 [] up ∧ up.jobs.completions.get .a = [] ∧ Ready .a 0x42 [] eightDone ∧
      (eightDone.jobs.completions.get .a).length = 8 ∧ Ready .a 0x50 [] up ∧ up.delivery.inbound.get .a = [] ∧
      Ready .a 0x50 [] waiting ∧ waiting.delivery.inbound.get .a = entry :: [] ∧
      (waiting.store.buffer entry.buffer).state = .delivered (MasterSet.singleton .a) MasterSet.empty := by
  refine ⟨ready_of ?_, ?_, ready_of ?_, ?_, ready_of ?_, ?_, ready_of ?_, ?_⟩ <;> decide +kernel

theorem test_witness_GrantRunsTheFirstEligibleHead :
    let s := { up with jobs := { up.jobs with outbound := ⟨[job], [], [], [{ job with master := .d }]⟩, pointer := .b } }
    let held := { s with holds := [⟨0x50, 5⟩] }
    s.jobs.running = none ∧ s.line.state.isUp = true ∧ s.line.settings.listenOnly = false ∧
      Master.startingAt s.jobs.pointer = [.b, .c] ++ .d :: [.a] ∧ (∀ n ∈ [Master.b, .c], s.jobs.outbound.get n = []) ∧
      s.jobs.outbound.get .d = [{ job with master := .d }] ∧ eligible s.holds { job with master := .d } = true ∧
      eligible held.holds job = false ∧ inWait.jobs.running ≠ none ∧ ready.line.state.isUp = false ∧
      (job.orders = [] ++ ⟨.send 0, some request⟩ :: [⟨.await 100, none⟩, ⟨.finish, none⟩] ∧
        eligible [⟨0x51, 5⟩] job = true) ∧
      (∀ o ∈ [(⟨.wait 1, none⟩ : JobOrder)], ∀ b, o.order ≠ .send b) ∧
      eligible held.holds { job with orders := [⟨.wait 1, none⟩] } = true := by decide +kernel

theorem test_witness_JobTimersExpire :
    inAwait.jobs.running = some ⟨job, 45056, .await key 1100⟩ ∧ inWait.jobs.running = some ⟨job, 45056, .wait 0⟩ ∧
      (inAccess.jobs.running = some ⟨job, 45056, .send⟩ ∧ inAccess.transmitter.waiting ≠ none) ∧
      (onWire.jobs.running = some ⟨job, 45056, .send⟩ ∧ onWire.transmitter.waiting = none ∧ job.pendingEnd = none) ∧
      ((withRunning ⟨cancelled, 9, .send⟩ onWire).jobs.running = some ⟨cancelled, 9, .send⟩ ∧
        cancelled.pendingEnd ≠ none) := by decide +kernel

/-! ### Witnesses: the receiver and the delivery unit -/

theorem test_witness_CharactersAreTaken :
    let cut (b : Option BufferId) : Frame := ⟨[0x34], 1, 0, some b.isSome, b, [0x34], [], none⟩
    let learned (bad : Nat) := withFrame (cut none) (withLine (.up 0 bad) .learn up)
    up.line.state = .up 0 0 ∧ up.transmitter.wire = .none ∧ up.receiver = none ∧
      addressMatches up 0x34 = true ∧ up.store.freeQueue = 0 :: (List.finRange 96).tail ∧
      addressMatches { up with store := { up.store with freeQueue := [] } } 0xFF = true ∧ addressMatches up 0x35 = false ∧
      (withFrame (cut (some 0)) up).receiver ≠ none ∧ up.line.settings.rateMode = .fixed ∧
      ((learned 6).line.state = .up 0 6 ∧ (learned 7).line.state = .up 0 7 ∧ (learned 7).receiver ≠ none ∧
        (learned 7).line.settings.rateMode = .learn ∧ (learned 7).transmitter.wire = .none) := by decide +kernel

/-- The line DOWN, DE raised while a character is sent and in the turnaround delay, and QUALIFY without and with a frame. -/
theorem test_witness_CharactersAreTaken_elsewhere :
    let f : OnWire := ⟨.job attempt, false, false, 2⟩
    let sending := withWire (.sending f [⟨true, 0x50⟩]) up
    let qualifies := withLine (.qualify 3 1 9) .learn ready
    ready.line.state = .down ∧ (sending.line.state ≠ .down ∧ sending.transmitter.wire = .sending f [⟨true, 0x50⟩]) ∧
      (onWire.line.state ≠ .down ∧ onWire.transmitter.wire = .turnaround f 2) ∧
      (qualifies.line.state = .qualify 3 1 9 ∧ qualifies.transmitter.wire = .none ∧ qualifies.receiver = none ∧
        (withFrame (badFrame none none) qualifies).receiver ≠ none) := by decide +kernel

theorem test_witness_CharactersAreTaken_body :
    let header (l : Byte) : List Byte := [0x34, 0x60, 0x10, 1, l]
    let f (l : Byte) (count : Nat) (assembly : List Byte) (e : Option ReceiveError) : Frame :=
      ⟨header l, count, 0, some true, some 0, assembly, [], e⟩
    (withFrame (f 9 6 [0, 0, 0, 0, 0, 0] none) up).receiver = some (f 9 6 [0, 0, 0, 0, 0, 0] none) ∧
      (f 9 6 [] none).header[4]? = some 9 ∧ (f 9 6 [] none).buffer = some 0 ∧
      ((f 9 6 [] none).count ≤ min (4 + (9 : Byte).toNat) 244 ∧ ([0, 0, 0, 0, 0, 0] ++ [7]).length ≠ 8 ∧
        6 ≠ min (4 + (9 : Byte).toNat) 244) ∧
      ([0, 0, 0, 0, 0, 0, 0] ++ [7]).length = 8 ∧ (f 9 13 [] none).count = min (4 + (9 : Byte).toNat) 244 ∧
      (¬(f 9 14 [] none).count ≤ min (4 + (9 : Byte).toNat) 244 ∧ (f 9 14 [] none).count = 5 + (9 : Byte).toNat) ∧
      ((f 255 244 [] none).count = min (4 + (255 : Byte).toNat) 244 ∧
        ¬(f 255 245 [] none).count ≤ min (4 + (255 : Byte).toNat) 244) ∧
      (f 9 6 [] (some .framing)).firstError ≠ none ∧ (badFrame none none).buffer = none ∧
      (⟨[0x34], 1, 0, none, none, [], [], none⟩ : Frame).header[4]? = none := by decide +kernel

theorem test_witness_BadFrameIsCounted :
    let good := goodFrame [0x34, 0x60, 0x10, 1, 0] (some true) (some 0)
    let bad := badFrame (some true) (some 0)
    let sourced (source kind destination : Byte) := goodFrame [destination, source, kind, 1, 0] (some true) (some 0)
    let s := withFrame bad (withBuffer 0 ⟨.filling, false⟩ up)
    let learned (n : Nat) := withLine (.up 0 n) .learn s
    s.receiver = some bad ∧ s.line.state = .up 0 0 ∧ s.line.settings.rateMode = .fixed ∧
      ((learned 6).receiver = some bad ∧ (learned 6).line.state = .up 0 6 ∧ (learned 7).line.state = .up 0 7 ∧
        (learned 7).line.settings.rateMode = .learn) ∧
      frameError { bad with firstError := some .framing } = some .framing ∧ frameError { bad with count := 8 } = some .length ∧
      frameError { bad with count := 4, header := [0x34, 0x60, 0x10, 1] } = some .length ∧
      frameError { good with header := [0x34, 0x60, 0x10, 1, 241], count := 248 } = some .length ∧
      frameError bad = some .crc ∧ frameError (sourced 0xE0 0x11 0x34) = some .source ∧ frameError (sourced 0 0x10 0x34) = some .source ∧
      frameError (sourced 0xDF 0x11 0x34) = some .kind ∧ frameError (sourced 0xDF 0x30 0xE0) = some .kind ∧
      frameError (sourced 0xDF 0x31 0xDF) = none ∧ frameError good = none := by decide +kernel

theorem test_witness_DataFrameIsFannedOut :
    let f := goodFrame [0xE5, 0x62, 0x10, 11, 0] (some true) (some 0)
    let g := goodFrame [0xFF, 0x62, 0x20, 11, 0] (some true) none
    let s := withFrame f (withBuffer 0 ⟨.filling, false⟩ up)
    s.receiver = some f ∧ frameError f = none ∧ f.matched = some true ∧ f.buffer = some 0 ∧ s.line.state.isUp = true ∧
      (headerOf f.header).kind = 0x10 ∧ (targetSet s 0xE5).get .b = true ∧
      ((withLine (.up 0 7) .learn s).line.state.isUp = true ∧
        (goodFrameEnded (withLine (.up 0 7) .learn s)).line.state = .up 0 0) ∧
      (withFrame g up).receiver = some g ∧ frameError g = none ∧ g.matched = some true ∧ g.buffer = none ∧
      (headerOf g.header).kind = 0x20 ∧ 0xE0 ≤ (headerOf g.header).destination.toNat := by
  decide +kernel

theorem test_witness_DataFrameIsFannedOut_table :
    TableLaw up ∧ (∃ e ∈ up.table, e.address = 0xE5 ∧ e.subscribers.get .b = true) ∧
      ∃ e ∈ up.table, e.address = 0x34 ∧ e.subscribers = MasterSet.singleton .b := by
  unfold TableLaw TableEntry.lawful; decide +kernel

theorem test_witness_RequestIsAnsweredBusy :
    let f (b : Option BufferId) := goodFrame [0x34, 0x60, 0x20, 7, 0] (some true) b
    let e : DeliveryEntry := ⟨1, request, 0, false, false, false⟩
    let s (b : Option BufferId) := setPortSettings .b ⟨24, 1, true⟩ (withFrame (f b) (withBuffer 0 ⟨.filling, false⟩ up))
    let full := { s (some 0) with delivery := { up.delivery with inbound := ⟨[], [e], [], []⟩ } }
    full.receiver = some (f (some 0)) ∧ frameError (f (some 0)) = none ∧ (f (some 0)).matched = some true ∧
      full.line.state.isUp = true ∧ (headerOf (f none).header).kind = 0x20 ∧
      (1 ≤ (headerOf (f none).header).destination.toNat ∧ (headerOf (f none).header).destination.toNat ≤ 0xDF) ∧
      ownerOf full.table (headerOf (f none).header).destination = some .b ∧
      (full.ports.get .b).settings.busyThreshold ≤ (full.delivery.inbound.get .b).length ∧
      ((s (some 0)).delivery.inbound.get .b).length < ((s (some 0)).ports.get .b).settings.busyThreshold ∧
      ((s none).receiver = some (f none) ∧ (f none).buffer = none ∧ frameError (f none) = none) ∧
      ownerOf [] (headerOf (f none).header).destination = none ∧ full.line.settings.listenOnly = false := by decide +kernel

theorem test_witness_ReplyIsCaptured :
    let f (kind : Byte) (b : Option BufferId) := goodFrame [0x21, 0x50, kind, 1, 0] (some true) b
    let h := headerOf (f 0x30 none).header
    let s := withFrame (f 0x30 (some 0)) (withBuffer 0 ⟨.filling, false⟩ inAwait)
    let late := { withFrame (f 0x31 none) up with delivery := { up.delivery with late := ⟨some key, none, none, none⟩ } }
    s.receiver = some (f 0x30 (some 0)) ∧ frameError (f 0x30 (some 0)) = none ∧ (f 0x30 (some 0)).matched = some true ∧
      s.line.state.isUp = true ∧ h.kind = 0x30 ∧
      s.jobs.running = some ⟨job, 45056, .await key 1100⟩ ∧ h.destination = key.source ∧ h.source = key.destination ∧
      h.sequence = key.sequence ∧
      (late.receiver = some (f 0x31 none) ∧ frameError (f 0x31 none) = none ∧ (headerOf (f 0x31 none).header).kind = 0x31 ∧
        late.jobs.running = none ∧ ownerOf late.table h.destination = some .a ∧ late.delivery.late.get .a = some key) ∧
      (withFrame (f 0x31 none) up).delivery.late.get .a = none ∧ (withFrame (f 0x31 none) up).jobs.running = none := by
  decide +kernel

theorem test_witness_HoldAndResumeAreTaken :
    let f := goodFrame [0xFF, 0x62, 0x40, 1, 0] (some true) none
    let g := goodFrame [0xFF, 0x62, 0x41, 1, 0] (some true) none
    (withFrame f up).receiver = some f ∧ frameError f = none ∧ f.matched = some true ∧
      (withFrame f up).line.state.isUp = true ∧ (headerOf f.header).kind = 0x40 ∧
      (withFrame g up).receiver = some g ∧ frameError g = none ∧ g.matched = some true ∧ (headerOf g.header).kind = 0x41 := by
  decide +kernel

def sevenHolds : List HoldEntry := [⟨1, 9⟩, ⟨2, 4⟩, ⟨3, 4⟩, ⟨4, 9⟩, ⟨5, 9⟩, ⟨6, 9⟩, ⟨7, 9⟩]

def eightHolds : List HoldEntry := sevenHolds ++ [⟨8, 4⟩]

theorem test_witness_HoldListRules :
    (∃ e ∈ sevenHolds, e.station = 7) ∧ (∀ e ∈ sevenHolds, e.station ≠ 9) ∧ sevenHolds.length < 8 ∧
      8 ≤ eightHolds.length ∧
      eightHolds = [⟨1, 9⟩] ++ ⟨2, 4⟩ :: [⟨3, 4⟩, ⟨4, 9⟩, ⟨5, 9⟩, ⟨6, 9⟩, ⟨7, 9⟩, ⟨8, 4⟩] ∧
      (∀ x ∈ [(⟨1, 9⟩ : HoldEntry)], 4 < x.remaining) ∧
      (∀ x ∈ [(⟨3, 4⟩ : HoldEntry), ⟨4, 9⟩, ⟨5, 9⟩, ⟨6, 9⟩, ⟨7, 9⟩, ⟨8, 4⟩], 4 ≤ x.remaining) ∧
      (⟨2, 4⟩ : HoldEntry) ∈ sevenHolds ∧ (∀ x ∈ sevenHolds, 4 ≤ x.remaining) := by decide +kernel

/-! ### Witnesses: the transmitter, the notices and the time base -/

theorem test_witness_SendingBegins :
    let busy := { up with transmitter := ⟨.none, none, some ⟨0x60, 0x34, 7⟩⟩ }
    let both (access low : Nat) : State := { up with
      line := { up.line with idle := 0, access := access, low := low }
      transmitter := ⟨.none, some attempt, some ⟨0x60, 0x34, 7⟩⟩ }
    let toAccess (s : State) := (s.line.settings.accessGap + attempt.backoff) * 11 - s.line.access
    let toEndGap (s : State) := s.line.low + (22 - s.line.idle)
    (toAccess (both 60 7) < toEndGap (both 60 7) ∧ toEndGap (both 0 7) ≤ toAccess (both 0 7)) ∧
      (inAccess.transmitter.wire = .none ∧ inAccess.receiver = none ∧ inAccess.transmitter.waiting = some attempt ∧
      inAccess.transmitter.slot = none) ∧
      (busy.transmitter.wire = .none ∧ busy.receiver = none ∧ busy.transmitter.slot = some ⟨0x60, 0x34, 7⟩) := by
  decide +kernel

theorem test_witness_EchoIsCompared :
    let f (cut : Bool) : OnWire := ⟨.job attempt, false, cut, 2⟩
    let s (cut : Bool) (rest : List TxCharacter) := withWire (.sending (f cut) (⟨true, 0x50⟩ :: rest)) up
    (s false []).transmitter.wire = .sending (f false) (⟨true, 0x50⟩ :: []) ∧
      (s false [⟨false, 0⟩]).transmitter.wire = .sending (f false) (⟨true, 0x50⟩ :: [⟨false, 0⟩]) ∧
      (s true []).transmitter.wire = .sending (f true) (⟨true, 0x50⟩ :: []) ∧ (f true).cut = true ∧
      (BitVec.ofNat 11 (2 * (0x50 : Byte).toNat + 512 * true.toNat + 1024)).getLsbD 10 = true := by decide +kernel

theorem test_witness_DriverIsReleased :
    let wire (a : Attempt) (collided cut : Bool) : Wire := .turnaround ⟨.job a, collided, cut, 2⟩ 2
    let s (w : Wire) (j : Job) := withWire w (withRunning ⟨j, 45056, .send⟩ up)
    let low (w : Wire) (j : Job) := setWire .none (lineTime 2 (s w j))
    let looped : Attempt := { attempt with loopBack := true }
    onWire.transmitter.wire = wire attempt false false ∧ (low (wire attempt false false) job).jobs.running = some ⟨job, 45054, .send⟩ ∧
      job.pendingEnd = none ∧ job.orders[job.index]? = some ⟨.send 0, some request⟩ ∧
      ((s (wire attempt true false) { job with retries := 3 }).transmitter.wire = wire attempt true false ∧
        up.line.settings.retryLimit ≤ 3 ∧ job.retries < up.line.settings.retryLimit) ∧
      ((low (wire attempt true false) cancelled).jobs.running = some ⟨cancelled, 45054, .send⟩ ∧
        cancelled.pendingEnd = some .cancelled ∧ cancelled.orders[cancelled.index]? = some ⟨.send 0, some request⟩) ∧
      ((s (wire looped false false) job).transmitter.wire = wire looped false false ∧ looped.loopBack = true ∧
        looped.copy.length ≤ 245) ∧
      (withWire (.turnaround ⟨.busy ⟨0x60, 0x34, 7⟩, false, false, 2⟩ 2) up).transmitter.wire =
        .turnaround ⟨.busy ⟨0x60, 0x34, 7⟩, false, false, 2⟩ 2 ∧
      (s (wire attempt false true) job).transmitter.wire = wire attempt false true := by decide +kernel

/-- Both cases of a loop-back copy: a FREE buffer for it, and none. -/
theorem test_witness_LoopedBack :
    up.store.freeQueue = 0 :: (List.finRange 96).tail ∧ Memory.wf up.store.mem = true ∧
      { up.store with freeQueue := [] }.freeQueue = [] := by decide +kernel

theorem test_witness_NoticeTakesTheHighest :
    let s := raiseAt .a .line (raiseAt .a .missed up)
    let t := raiseAt .a .missed up
    Ready .a 0x60 [] s ∧ Ready .a 0x60 [] t ∧ Ready .a 0x60 [] up ∧ attnLow .a up = false ∧
      (s.notices.get .a).takeable .line = true ∧ (t.notices.get .a).takeable .missed = true ∧
      (t.notices.get .a).next = some .missed := by
  refine ⟨ready_of ?_, ready_of ?_, ready_of ?_, ?_⟩ <;> decide +kernel

theorem test_witness_ReleaseMaskStats :
    Ready .a 0x61 [0] up ∧ Ready .a 0x61 [6] up ∧ Ready .a 0x61 [5] up ∧ NoticeSource.number .missed = (5 : Byte).toNat ∧
      Ready .a 0x62 [31] up ∧ Ready .a 0x62 [32] up ∧ Ready .a 0x70 [] up := by
  refine ⟨ready_of ?_, ready_of ?_, ready_of ?_, ?_, ready_of ?_, ready_of ?_, ready_of ?_⟩ <;> decide +kernel

theorem test_witness_TimeBaseCounts : ready.clearing = false ∧ State.reset.clearing = true := by decide +kernel

theorem test_witness_PortResetClearsOneMaster :
    Ready .b 0x04 [] up ∧ (MasterSet.erase up.line.want .b).isEmpty = false ∧ Ready .a 0x04 [] ready ∧
      ready.line.state = .down := by
  refine ⟨ready_of ?_, ?_, ready_of ?_, ?_⟩ <;> decide +kernel

theorem test_witness_PortResetTakesTheLineDown :
    let other := withRunning ⟨{ job with master := .b }, 45056, .wait 0⟩ up
    let seeking := withLine (.seek []) .learn up
    Ready .a 0x04 [] inAwait ∧ Ready .a 0x04 [] other ∧ Ready .a 0x04 [] seeking ∧
      (MasterSet.erase inAwait.line.want .a).isEmpty = true ∧ inAwait.line.state ≠ .down ∧ inAwait.line.state.isUp = true ∧
      runsFor .a inAwait.jobs.running = true ∧ runsFor .a other.jobs.running = false ∧ other.line.state.isUp = true ∧
      (MasterSet.erase seeking.line.want .a).isEmpty = true ∧ seeking.line.state ≠ .down ∧
      seeking.line.state.isUp = false := by
  refine ⟨ready_of ?_, ready_of ?_, ready_of ?_, ?_⟩ <;> decide +kernel

/-- A's reset ends B's job LINE LOST, and B gets its buffer, its entry and its requests (R66, R135). -/
theorem test_portReset_lineLost :
    let s := withBuffer 0 ⟨.inJob .b 0, false⟩ (withRunning ⟨{ job with master := .b }, 45056, .await key 1100⟩ up)
    let t := next (exec (.portReset .a) s)
    t.jobs.running = none ∧ (t.jobs.completions.get .b).map Completion.outcome = [.lineLost] ∧
      t.store.buffer 0 = ⟨.owned .b, false⟩ ∧ t.delivery.late.get .b = some key ∧ ownerOf t.table 0x21 = none ∧
      (t.notices.get .b).next = some .line ∧ (t.notices.get .a).next = none := by decide +kernel

/-- What the witnesses of the line's steps are built with leaves a settled state settled, and their first states are. -/
theorem test_witness_settled :
    (∀ f s, settles (withFrame f s) = settles s) ∧ (∀ l k s, settles (withLine l k s) = settles s) ∧
      (∀ b r s, settles (withBuffer b r s) = settles s) ∧ (∀ w s, settles (withWire w s) = settles s) ∧
      (∀ s t d, settles { s with transmitter := t, delivery := d } = settles s) ∧
      (∀ s l, settles { s with line := l, holds := [] } = settles s) ∧
      settles up = true ∧ settles ready = true ∧ settles State.reset = true ∧ settles inAwait = true ∧ settles inWait = true ∧
      settles inAccess = true ∧ settles onWire = true ∧
      ∀ j : Job, settles (withRunning ⟨j, 45056, .send⟩ up) = true :=
  ⟨fun _ _ => rfl, fun _ _ _ => rfl, fun _ _ _ => rfl, fun _ _ => rfl, fun _ _ _ => rfl, fun _ _ => rfl, by decide +kernel,
    by decide +kernel, by decide +kernel, by decide +kernel, by decide +kernel, by decide +kernel, by decide +kernel, fun _ => rfl⟩

/-- A granted job whose SEND is due, at the end of a HOLD from its station; and a BRANCH before a SEND. -/
theorem test_witness_AttemptDue :
    let hold := goodFrame [0x21, 0x50, 0x40, 1, 0] (some true) none
    let r : Running := ⟨{ job with steps := 1 }, 45056, .due 0 request⟩
    let s := withFrame hold (withRunning r (withBuffer 0 ⟨.inJob .a 0, false⟩ up))
    let fresh : Running := ⟨job, 45056, .send⟩
    let branches : Job := { job with orders := [⟨.branch .notReplied 1, none⟩, ⟨.send 0, some request⟩] }
    (s.line.low + (22 - s.line.idle) = 0 ∧ s.receiver = some hold ∧ frameError hold = none ∧ hold.matched = some true ∧
        s.line.state.isUp = true ∧ (headerOf hold.header).kind = 0x40 ∧ s.jobs.running = some r ∧
        request.destination = (headerOf hold.header).source ∧ ownerOf s.table request.source = some r.job.master ∧
        ownerOf s.table (headerOf hold.header).source = none) ∧
      (fresh.job.orders[fresh.job.index]? = some ⟨.send 0, some request⟩ ∧ fresh.job.steps < 32) ∧
      (branches.orders[branches.index]? = some ⟨.branch .notReplied 1, none⟩ ∧ branches.lastAwait ≠ .replied ∧
        { branches with lastAwait := .replied }.lastAwait = .replied ∧ branches.steps < 32) ∧
      (commandBytes (.time .d) = some (.d, 0x71, []) ∧ s.clearing = false ∧ awaits (s.ports.get .d) 0x71 [] = true) ∧
      ({ s with line := { s.line with idle := 21 } }.line.low + (22 - 21) ≠ 0) := by decide +kernel

/-! ### Witnesses: the laws -/

/-- A state in which a job of A awaits its reply and a frame fills a buffer keeps every law. -/
def busyPart : State :=
  withFrame ⟨[0x21], 1, 0, some true, some 1, [0x21], [], none⟩
    (withBuffer 1 ⟨.filling, false⟩ (withBuffer 0 ⟨.inJob .a 0, false⟩ inAwait))

theorem test_witness_CommandBytesDecode :
    WellFormed (.time .d) = true ∧ commandBytes (.time .d) = some (.d, 0x71, []) := by decide +kernel

theorem test_witness_ResetKeepsTheLaws : ∃ t, exec .startUpClearEnd State.reset = .next t := ⟨_, rfl⟩

theorem test_witness_step : ∃ t, step { busyPart with pending := [.grant] } = .next t := ⟨_, rfl⟩

theorem test_witness_StoreAndTable : StoreForm busyPart ∧ DamageLaw busyPart ∧ TableLaw busyPart := by
  refine ⟨?_, ?_, ?_⟩
  · exact ⟨rfl, fun c h => absurd h List.not_mem_nil, List.Pairwise.nil⟩
  · exact ⟨by decide +kernel, List.nodup_nil, fun w h => absurd h List.not_mem_nil⟩
  · unfold TableLaw TableEntry.lawful; decide +kernel

theorem test_witness_SettingsAndNotices :
    SettingsLaw busyPart ∧ NoticeLaw busyPart ∧ ResetLaw (next (exec (.powerOn true) busyPart)) ∧
      (next (exec (.powerOn true) busyPart)).resetLow = true := by
  refine ⟨?_, ?_, ?_, ?_⟩
  · unfold SettingsLaw Settings.inRange PortSettings.inRange; decide +kernel
  · unfold NoticeLaw; decide +kernel
  · unfold ResetLaw; decide +kernel
  · decide +kernel

theorem test_witness_LineLaws : LineLaw busyPart ∧ HoldLaw busyPart := by
  refine ⟨?_, ?_⟩
  · unfold LineLaw; decide +kernel
  · unfold HoldLaw; decide +kernel

theorem test_witness_BuffersAndJobs : JobLaw busyPart ∧ BufferLaw busyPart := by
  refine ⟨?_, ?_⟩
  · unfold JobLaw; decide +kernel
  · unfold BufferLaw Job.holdsBuffers
    refine ⟨?_, ?_, ?_, ?_, ?_, ?_, ?_, ?_⟩
    · have h : busyPart.store.freeQueue = ((List.finRange 96).erase 0).erase 1 := by decide +kernel
      rw [h]
      exact ((List.nodup_finRange 96).erase _).erase _
    iterate 6 decide +kernel
    · intro r hr
      obtain rfl := Option.some.inj (show some ⟨job, 45056, .await key 1100⟩ = some r from hr)
      exact ⟨by decide +kernel, by decide +kernel, fun b h hd => by cases hd⟩

/-- A state in which a grant has made a SEND of buffer 0 due while a frame fills buffer 1 keeps the laws of O59. -/
def duePart : State :=
  withFrame ⟨[0x21], 1, 0, some true, some 1, [0x21], [], none⟩
    (withBuffer 1 ⟨.filling, false⟩ (withBuffer 0 ⟨.inJob .a 0, false⟩
      (withRunning ⟨{ job with steps := 1 }, 45056, .due 0 request⟩ up)))

theorem test_witness_BuffersAndJobs_due : LineLaw duePart ∧ JobLaw duePart ∧ BufferLaw duePart := by
  refine ⟨?_, ?_, ?_⟩
  · unfold LineLaw; decide +kernel
  · unfold JobLaw; decide +kernel
  · unfold BufferLaw Job.holdsBuffers
    refine ⟨?_, ?_, ?_, ?_, ?_, ?_, ?_, ?_⟩
    · have h : duePart.store.freeQueue = ((List.finRange 96).erase 0).erase 1 := by decide +kernel
      rw [h]
      exact ((List.nodup_finRange 96).erase _).erase _
    iterate 6 decide +kernel
    · intro r hr
      obtain rfl := Option.some.inj (show some ⟨{ job with steps := 1 }, 45056, .due 0 request⟩ = some r from hr)
      exact ⟨by decide +kernel, by decide +kernel, fun b h hd => by cases hd; exact ⟨_, rfl⟩⟩

theorem test_witness_DeliveryLaw : DeliveryLaw busyPart := by
  unfold DeliveryLaw; decide +kernel

end Sys2Proof.Tests
end

section
/-!
PROOFS. The canonical form of the store, the law of the damaged-word table and the law of the address table: what each operation of the
model keeps of them, and that a step keeps all three (R1, R23, R30).
-/

namespace Sys2Proof.Machine

/-! ### A step taken apart -/

/-- Every step that is a command of a port has command bytes (R169). -/
theorem commandBytes_of_effectOf {i : Instr} {e : State → Reply} (h : effectOf i = some e) :
    ∃ m code args, commandBytes i = some (m, code, args) := by
  cases i <;> simp [effectOf, commandBytes] at h ⊢

/-- What a property of two states must have so that every step has it: it holds of a state and itself, it can be chained, and an
attempt that begins, a transaction that moves on, an event, the effect of a command and one bit time have it. -/
theorem step_induction {R : State → State → Prop} (refl : ∀ s, R s s) (trans : ∀ {s t u}, R s t → R t u → R s u)
    (pending : ∀ {s t} q, R { s with pending := q } t → R s t)
    (attempt : ∀ s, R s (takeAttempt s)) (transaction : ∀ m x s, R s (setTransaction m x s))
    (effect : ∀ {i e}, effectOf i = some e → ∀ s, R s (e s).state) (time : ∀ n s, R s (lineTime n s))
    {s t : State}
    (event : ∀ {i q}, effectOf i = none → (∀ m b, i ≠ .byteArrives m b) →
      exec i { s with pending := q } = .next t → R { s with pending := q } t)
    (h : step s = .next t) : R s t := by
  have taken : ∀ {i e}, effectOf i = some e → ∀ m s, R s (takeCommand m e s) := by
    intro i e he m s
    unfold takeCommand
    split
    · exact transaction ..
    · exact trans (attempt s) (trans (effect he _) (transaction ..))
  have counted : ∀ m code args s, R s (takeOrCount m code args s) := by
    intro m code args s
    unfold takeOrCount
    split
    · rename_i e he
      obtain ⟨i, -, hi⟩ := Option.bind_eq_some_iff.mp he
      exact taken hi m s
    · exact transaction ..
  unfold step at h
  split at h
  · cases h
    exact trans (attempt s) (time ..)
  · rename_i i q hq
    refine pending q ?_
    cases he : effectOf i with
    | none =>
      by_cases hb : ∃ m b, i = .byteArrives m b
      · obtain ⟨m, b, rfl⟩ := hb
        cases h
        unfold byteArrives
        split
        · split
          · exact counted ..
          · exact transaction ..
        · exact counted ..
        · exact refl _
      · exact event he (fun m b e => hb ⟨m, b, e⟩) h
    | some e =>
      obtain ⟨m, code, args, hc⟩ := commandBytes_of_effectOf he
      rw [exec_command hc he] at h
      cases h
      unfold commandStep
      split
      · exact taken he ..
      · exact refl _

/-! ### The bytes and the upset words -/

/-- The canonical form, as a property of the store alone (R1). -/
def Store.Canonical (st : Store) : Prop :=
  Memory.wf st.mem = true ∧ (∀ c ∈ st.mem, c.1 < 24576) ∧ st.upsets.Pairwise fun u v => u.word < v.word

theorem storeForm_iff (s : State) : StoreForm s ↔ s.store.Canonical := Iff.rfl

theorem Memory.mem_writeBytes {mem : List Host.Cell} {a : Nat} {bytes : List Byte} {c : Host.Cell}
    (h : c ∈ Memory.writeBytes mem a bytes) : c ∈ mem ∨ (a ≤ c.1 ∧ c.1 < a + bytes.length) := by
  induction bytes generalizing mem a with
  | nil => exact .inl h
  | cons v rest ih =>
    rw [List.length_cons]
    rcases ih h with h | h
    · rcases Memory.mem_write h with h | ⟨rfl, -⟩
      · exact .inl h
      · exact .inr (by simp only; omega)
    · exact .inr (by omega)

theorem Store.Canonical.writeWord {st : Store} (h : st.Canonical) (w : WordNo) (bytes : List Byte) :
    (st.writeWord w bytes).Canonical := by
  obtain ⟨hw, ha, hu⟩ := h
  refine ⟨Store.writeWord_wf hw .., fun c hc => ?_, hu.filter _⟩
  rcases Memory.mem_writeBytes hc with hc | hc
  · exact ha c hc
  · rw [length_padWord] at hc
    omega

theorem Store.Canonical.clearUpset {st : Store} (h : st.Canonical) (w : WordNo) : (st.clearUpset w).Canonical :=
  ⟨h.1, h.2.1, h.2.2.filter _⟩

theorem mem_insertUpset {u v : Upset} {us : List Upset} (h : v ∈ insertUpset u us) : v = u ∨ v ∈ us := by
  induction us with
  | nil => simpa [insertUpset] using h
  | cons x rest ih =>
    unfold insertUpset at h
    split at h
    · simpa using h
    · rcases List.mem_cons.mp h with rfl | h
      · simp
      · exact (ih h).imp id (List.mem_cons_of_mem _)

/-- An upset entry for a word that has none stands in its place. -/
theorem pairwise_insertUpset {u : Upset} {us : List Upset} (hu : ∀ v ∈ us, v.word ≠ u.word)
    (h : us.Pairwise fun x y => x.word < y.word) : (insertUpset u us).Pairwise fun x y => x.word < y.word := by
  induction us with
  | nil => exact List.pairwise_singleton ..
  | cons x rest ih =>
    obtain ⟨hx, hr⟩ := List.pairwise_cons.mp h
    have hxu := hu x (List.mem_cons_self ..)
    unfold insertUpset
    split
    · rename_i hlt
      refine List.pairwise_cons.mpr ⟨fun v hv => ?_, h⟩
      rcases List.mem_cons.mp hv with rfl | hv
      · exact hlt
      · exact hlt.trans (hx v hv)
    · rename_i hlt
      refine List.pairwise_cons.mpr ⟨fun v hv => ?_, ih (fun v hv => hu v (List.mem_cons_of_mem _ hv)) hr⟩
      rcases mem_insertUpset hv with rfl | hv
      · exact lt_of_le_of_ne (not_lt.mp hlt) hxu
      · exact hx v hv

theorem Store.upsetAt_eq_none {st : Store} {w : WordNo} : st.upsetAt w = none ↔ ∀ u ∈ st.upsets, u.word ≠ w := by
  simp [Store.upsetAt, List.find?_eq_none]

theorem Store.Canonical.addUpset {st : Store} (h : st.Canonical) (w : WordNo) (mask : BitVec 64) :
    (st.addUpset w mask).Canonical := by
  obtain ⟨hm, ha, hu⟩ := h
  unfold Store.addUpset
  cases hw : st.upsetAt w with
  | none => exact ⟨hm, ha, pairwise_insertUpset (Store.upsetAt_eq_none.mp hw) hu⟩
  | some u =>
    refine ⟨hm, ha, pairwise_insertUpset (Store.upsetAt_eq_none.mp (st.upsetAt_clearUpset_self w)) (hu.filter _)⟩

theorem Store.Canonical.zeroBuffer {st : Store} (h : st.Canonical) (b : BufferId) : (st.zeroBuffer b).Canonical := by
  unfold Store.zeroBuffer
  generalize List.range 32 = ks
  induction ks generalizing st with
  | nil => exact h
  | cons k rest ih => exact ih (h.writeWord ..)

theorem Store.Canonical.writeImage {st : Store} (h : st.Canonical) (b : BufferId) (k : Nat) (image : List Byte) :
    (st.writeImage b k image).Canonical := by
  fun_induction Store.writeImage st b k image with
  | case1 st k a0 a1 a2 a3 a4 a5 a6 a7 rest ih => exact ih (h.writeWord ..)
  | case2 => exact h
  | case3 => exact h.writeWord ..

end Sys2Proof.Machine
end

section
/-!
PROOFS. The damaged flags, the damaged-word table and the zeros of a scrub (R18, R22, R23), and what the shared operations of the
model keep of the laws of O56.
-/

namespace Sys2Proof.Machine

/-! ### Damaged flags -/

/-- The law of the damaged-word table, as a property of the store alone (R23). -/
def Store.ListsDamage (st : Store) : Prop :=
  st.damagedWords.length ≤ 16 ∧ st.damagedWords.Nodup ∧ ∀ w ∈ st.damagedWords, (st.buffer (bufferOf w)).damaged = true

theorem damageLaw_iff (s : State) : DamageLaw s ↔ s.store.ListsDamage := Iff.rfl

theorem Store.damaged_setState (st : Store) (b : BufferId) (v : BufferState) (c : BufferId) :
    ((st.setState b v).buffer c).damaged = (st.buffer c).damaged := by
  by_cases h : c = b
  · subst h; simp
  · rw [Store.buffer_setState_of_ne _ h]

theorem Store.damaged_leaveUse (st : Store) (b c : BufferId) : ((st.leaveUse b).buffer c).damaged = (st.buffer c).damaged := by
  rw [Store.leaveUse_eq]
  split
  · exact st.damaged_setState ..
  · exact st.damaged_setState ..

theorem Store.damaged_returnJob (st : Store) (m : Master) (tag : Byte) (c : BufferId) :
    ((st.returnJob m tag).buffer c).damaged = (st.buffer c).damaged := by
  rw [Store.buffer_returnJob]
  split <;> rfl

theorem BufferRecord.damaged_afterReset (r : BufferRecord) (m : Master) (lineGoes : Bool) :
    (r.afterReset m lineGoes).damaged = r.damaged := by
  unfold BufferRecord.afterReset
  split
  · cases r.damaged <;> rfl
  · split <;> rfl

/-- A word found uncorrectable is listed if it is not listed and there is room (R23). -/
theorem offerDamaged_damagedWords (w : WordNo) (s : State) :
    (offerDamaged w s).store.damagedWords =
      if w ∈ s.store.damagedWords then s.store.damagedWords
      else if s.store.damagedWords.length < 16 then s.store.damagedWords ++ [w] else s.store.damagedWords := by
  unfold offerDamaged
  split
  · rfl
  · split
    · rename_i h
      exact (if_pos h).symm
    · rename_i h
      exact (if_neg h).symm

theorem uncorrectableFinding_damagedWords {w : WordNo} {s : State} (h : (s.store.buffer (bufferOf w)).state ≠ .free) :
    (uncorrectableFinding w s).store.damagedWords =
      if w ∈ s.store.damagedWords then s.store.damagedWords
      else if s.store.damagedWords.length < 16 then s.store.damagedWords ++ [w] else s.store.damagedWords := by
  simp only [uncorrectableFinding, h, if_false, countAll_store, raiseIn_store, offerDamaged_damagedWords]
  rfl

/-- An uncorrectable finding on a buffer not FREE sets that buffer's damaged flag and changes no other record (R22). -/
theorem uncorrectableFinding_buffer {w : WordNo} {s : State} (h : (s.store.buffer (bufferOf w)).state ≠ .free) (b : BufferId) :
    (uncorrectableFinding w s).store.buffer b =
      if b = bufferOf w then ⟨(s.store.buffer b).state, true⟩ else s.store.buffer b := by
  rw [uncorrectableFinding_store h]
  show (s.store.setBuffer _ _).buffer b = _
  split
  · subst_vars; exact Store.buffer_setBuffer_self ..
  · exact Store.buffer_setBuffer_of_ne _ ‹_› _

/-- An uncorrectable finding on a FREE buffer writes the word with zeros (R21). -/
theorem uncorrectableFinding_of_free {w : WordNo} {s : State} (h : (s.store.buffer (bufferOf w)).state = .free) :
    uncorrectableFinding w s = countAll .uncorrectable { s with store := s.store.writeWord w [] } := by
  simp only [uncorrectableFinding, h, if_true]

theorem Store.ListsDamage.found {w : WordNo} {s : State} (hb : (s.store.buffer (bufferOf w)).state ≠ .free)
    (h : s.store.ListsDamage) : (uncorrectableFinding w s).store.ListsDamage := by
  obtain ⟨hl, hn, hd⟩ := h
  have hold : ∀ v, (s.store.buffer (bufferOf v)).damaged = true →
      ((uncorrectableFinding w s).store.buffer (bufferOf v)).damaged = true := by
    intro v hv
    rw [uncorrectableFinding_buffer hb]
    split
    · rfl
    · exact hv
  unfold Store.ListsDamage
  rw [uncorrectableFinding_damagedWords hb]
  split
  · exact ⟨hl, hn, fun v hv => hold v (hd v hv)⟩
  · rename_i hw
    split
    · refine ⟨by rw [List.length_append, List.length_singleton]; omega, ?_, fun v hv => ?_⟩
      · rw [← List.concat_eq_append]
        exact hn.concat hw
      · rcases List.mem_append.mp hv with hv | hv
        · exact hold v (hd v hv)
        · rw [List.mem_singleton.mp hv, uncorrectableFinding_buffer hb, if_pos rfl]
    · exact ⟨hl, hn, fun v hv => hold v (hd v hv)⟩

/-! ### Several words written with zeros -/

theorem foldl_writeWord_eq (words : List WordNo) (st : Store) : words.foldl (fun st w => st.writeWord w []) st =
    { st with mem := (words.foldl (fun st w => st.writeWord w []) st).mem, upsets := (words.foldl (fun st w => st.writeWord w []) st).upsets } := by
  induction words generalizing st with
  | nil => rfl
  | cons w rest ih => exact ih (st.writeWord w [])

theorem Store.zeroBuffer_eq_foldl (st : Store) (b : BufferId) :
    st.zeroBuffer b = (wordsOf b 0 31).foldl (fun st w => st.writeWord w []) st := by
  unfold Store.zeroBuffer wordsOf
  rw [List.foldl_map]
  simp only [Nat.zero_add, Nat.sub_zero]

theorem Store.zeroBuffer_eq (st : Store) (b : BufferId) :
    st.zeroBuffer b = { st with mem := (st.zeroBuffer b).mem, upsets := (st.zeroBuffer b).upsets } := by
  rw [st.zeroBuffer_eq_foldl]
  exact foldl_writeWord_eq ..

theorem Store.buffer_zeroBuffer (st : Store) (b c : BufferId) : (st.zeroBuffer b).buffer c = st.buffer c := by
  have h : (st.zeroBuffer b).buffers = st.buffers := by rw [st.zeroBuffer_eq]
  unfold Store.buffer
  simp only [h]

/-- A scrub clears its buffer's damaged flag and changes no other record (R18). -/
theorem Store.buffer_scrub (st : Store) (b c : BufferId) :
    (st.scrub b).buffer c = if c = b then ⟨(st.buffer c).state, false⟩ else st.buffer c := by
  have hz : ∀ c, (st.zeroBuffer b).buffer c = st.buffer c := st.buffer_zeroBuffer b
  have hw : ∀ (u : Store) ws, ({ u with damagedWords := ws } : Store).buffer c = u.buffer c := fun _ _ => rfl
  unfold Store.scrub
  simp only [hw]
  split
  · subst_vars
    rw [Store.buffer_setBuffer_self, hz]
  · rw [Store.buffer_setBuffer_of_ne _ ‹_›, hz]

theorem Store.damagedWords_scrub (st : Store) (b : BufferId) :
    (st.scrub b).damagedWords = st.damagedWords.filter fun w => bufferOf w ≠ b := by
  unfold Store.scrub
  simp only
  rw [st.zeroBuffer_eq]

theorem Store.ListsDamage.scrub {st : Store} (h : st.ListsDamage) (b : BufferId) : (st.scrub b).ListsDamage := by
  obtain ⟨hl, hn, hd⟩ := h
  unfold Store.ListsDamage
  rw [st.damagedWords_scrub]
  refine ⟨(List.length_filter_le ..).trans hl, hn.filter _, fun w hw => ?_⟩
  obtain ⟨hw, hb⟩ := List.mem_filter.mp hw
  rw [st.buffer_scrub, if_neg (by simpa using hb)]
  exact hd w hw

/-! ### What an operation keeps of store and table -/

/-- The law of the address table, as a property of the table alone (R30). -/
def LawfulTable (table : List TableEntry) : Prop :=
  table.length ≤ 16 ∧ (table.map TableEntry.address).Nodup ∧ ∀ e ∈ table, e.lawful

theorem tableLaw_iff (s : State) : TableLaw s ↔ LawfulTable s.table := Iff.rfl

/-- The laws of O56 hold of the second store and table if they hold of the first, each for itself. -/
structure StoreAndTableKept (st : Store) (table : List TableEntry) (st' : Store) (table' : List TableEntry) : Prop where
  form : st.Canonical → st'.Canonical
  damage : st.ListsDamage → st'.ListsDamage
  table : LawfulTable table → LawfulTable table'

/-- The laws of O56 are kept from one state to another. -/
abbrev KeepsStoreAndTable (s t : State) : Prop := StoreAndTableKept s.store s.table t.store t.table

namespace StoreAndTableKept

variable {st st' st'' : Store} {table table' table'' : List TableEntry}

theorem refl (st : Store) (table : List TableEntry) : StoreAndTableKept st table st table := ⟨id, id, id⟩

theorem trans (h : StoreAndTableKept st table st' table') (k : StoreAndTableKept st' table' st'' table'') :
    StoreAndTableKept st table st'' table'' :=
  ⟨k.form ∘ h.form, k.damage ∘ h.damage, k.table ∘ h.table⟩

/-- What is kept from a store and table is kept from every equal store and table. -/
theorem of_same (k : StoreAndTableKept st' table' st'' table'') (hs : st' = st) (ht : table' = table) :
    StoreAndTableKept st table st'' table'' := by
  subst hs ht
  exact k

/-- Buffer records and queue may change as they like so long as the damaged flags stay. -/
theorem of_records (hs : st' = { st with buffers := st'.buffers, freeQueue := st'.freeQueue })
    (hd : ∀ b, (st'.buffer b).damaged = (st.buffer b).damaged) : StoreAndTableKept st table st' table := by
  have hm : st'.mem = st.mem := by rw [hs]
  have hu : st'.upsets = st.upsets := by rw [hs]
  have hw : st'.damagedWords = st.damagedWords := by rw [hs]
  refine ⟨fun h => ?_, fun h => ?_, id⟩
  · unfold Store.Canonical
    rw [hm, hu]
    exact h
  · unfold Store.ListsDamage
    simp only [hw, hd]
    exact h

/-- Bytes and upsets may change so long as their form stays canonical. -/
theorem of_bytes (hs : st' = { st with mem := st'.mem, upsets := st'.upsets }) (hc : st.Canonical → st'.Canonical) :
    StoreAndTableKept st table st' table := by
  refine ⟨hc, fun h => ?_, id⟩
  rw [hs]
  exact h

end StoreAndTableKept

/-! ### The shared operations -/

theorem setState_keeps (b : BufferId) (v : BufferState) (s : State) :
    KeepsStoreAndTable s { s with store := s.store.setState b v } :=
  .of_records rfl (s.store.damaged_setState b v)

theorem leaveUse_store_eq (st : Store) (b : BufferId) :
    st.leaveUse b = { st with buffers := (st.leaveUse b).buffers, freeQueue := (st.leaveUse b).freeQueue } := by
  rw [Store.leaveUse_eq]
  split <;> rfl

theorem store_leaveUse_keeps (b : BufferId) (s : State) : KeepsStoreAndTable s { s with store := s.store.leaveUse b } :=
  .of_records (leaveUse_store_eq ..) (s.store.damaged_leaveUse b)

theorem leaveUse_keeps (b : Option BufferId) (s : State) : KeepsStoreAndTable s (leaveUse b s) := by
  cases b with
  | none => exact .refl ..
  | some b => exact store_leaveUse_keeps b s

theorem uncorrectableFinding_keeps (w : WordNo) (s : State) : KeepsStoreAndTable s (uncorrectableFinding w s) := by
  have ht : (uncorrectableFinding w s).table = s.table := (uncorrectableFinding_sameBesideStore w s).2.2.1
  by_cases hf : (s.store.buffer (bufferOf w)).state = .free
  · rw [uncorrectableFinding_of_free hf]
    exact .of_bytes rfl fun h => h.writeWord w []
  · refine ⟨fun h => ?_, fun h => h.found hf, by rw [ht]; exact id⟩
    rw [uncorrectableFinding_store hf]
    exact h

theorem readWord_keeps (w : WordNo) (s : State) : KeepsStoreAndTable s (readWord w s).2 := by
  unfold readWord
  split
  · exact .refl ..
  · exact .of_bytes rfl fun h => h.clearUpset w
  · exact uncorrectableFinding_keeps w s

theorem readWords_keeps (ws : List WordNo) (s : State) : KeepsStoreAndTable s (readWords ws s).2 := by
  induction ws generalizing s with
  | nil => exact .refl ..
  | cons w rest ih => exact (readWord_keeps w s).trans (ih _)

theorem endJob_keeps (outcome : JobOutcome) (failing : Option Nat) (s : State) :
    KeepsStoreAndTable s (endJob outcome failing s) := by
  unfold endJob
  split
  · exact .refl ..
  · rename_i r _
    exact .of_records rfl (s.store.damaged_returnJob r.job.master r.job.tag)

theorem silenceAwait_store_table (s : State) : (silenceAwait s).store = s.store ∧ (silenceAwait s).table = s.table := by
  unfold silenceAwait
  split
  · split <;> exact ⟨rfl, rfl⟩
  · exact ⟨rfl, rfl⟩

theorem silenceAwait_keeps (s : State) : KeepsStoreAndTable s (silenceAwait s) := by
  obtain ⟨hs, ht⟩ := silenceAwait_store_table s
  exact (StoreAndTableKept.refl ..).of_same hs ht

theorem endInProgress_keeps (p : PendingEnd) (s : State) : KeepsStoreAndTable s (endInProgress p s) := by
  unfold endInProgress
  split
  · exact .refl ..
  · split
    · exact endJob_keeps ..
    · exact (silenceAwait_keeps s).trans (endJob_keeps ..)
    · exact endJob_keeps ..
    · split
      · exact (endJob_keeps ..).of_same rfl rfl
      · exact .refl ..

theorem lineLost_keeps (s : State) : KeepsStoreAndTable s (lineLost s) := by
  unfold lineLost
  split
  · exact .refl ..
  · exact (silenceAwait_keeps s).trans (endJob_keeps ..)

theorem beginAttempt_keeps (r : Running) (b : BufferId) (h : Header) (s : State) :
    KeepsStoreAndTable s (beginAttempt r b h s) := by
  unfold beginAttempt
  simp only
  split
  · exact endJob_keeps ..
  · split
    · exact endJob_keeps ..
    · split
      · exact endJob_keeps ..
      · refine (readWords_keeps (wordsOf b 0 ((4 + h.length.toNat) / 8)) s).trans ?_
        split
        · exact endJob_keeps ..
        · exact .refl ..

theorem takeAttempt_keeps (s : State) : KeepsStoreAndTable s (takeAttempt s) := by
  unfold takeAttempt
  split
  · exact .refl ..
  · split
    · exact (beginAttempt_keeps ..).of_same rfl rfl
    · exact .refl ..

theorem orderReached_keeps (fuel : Nat) (s : State) : KeepsStoreAndTable s (orderReached fuel s) := by
  induction fuel generalizing s with
  | zero => exact .refl ..
  | succ n ih =>
    unfold orderReached
    split
    · exact .refl ..
    · simp only
      split
      · exact endJob_keeps ..
      · split
        · exact endJob_keeps ..
        · split
          · exact .refl ..
          · split
            · exact (endJob_keeps ..).of_same rfl rfl
            · exact .refl ..
          · exact (ih _).of_same rfl rfl
          · exact .refl ..
          · exact (endJob_keeps ..).of_same rfl rfl

theorem orderDue_keeps (fuel : Nat) (s : State) : KeepsStoreAndTable s (orderDue fuel s) :=
  (orderReached_keeps fuel s).trans (takeAttempt_keeps _)

theorem nextOrder_keeps (s : State) : KeepsStoreAndTable s (nextOrder s) := by
  unfold nextOrder
  split
  · exact .refl ..
  · exact (orderDue_keeps ..).of_same rfl rfl

theorem abandonReception_keeps (s : State) : KeepsStoreAndTable s (abandonReception s) := by
  unfold abandonReception
  split
  · exact .refl ..
  · rename_i f _
    exact leaveUse_keeps f.buffer { s with receiver := none }

theorem leaveState_keeps (s : State) : KeepsStoreAndTable s (leaveState s) := by
  unfold leaveState
  split
  · exact .refl ..
  · exact abandonReception_keeps s
  · exact abandonReception_keeps s
  · exact (abandonReception_keeps (cutAll (raiseAll .line (latchAll _ s)))).trans (lineLost_keeps _)

theorem goDown_keeps (s : State) : KeepsStoreAndTable s (goDown s) := (leaveState_keeps s).trans (.refl ..)

theorem goSeek_keeps (s : State) : KeepsStoreAndTable s (goSeek s) := (leaveState_keeps s).trans (.refl ..)

theorem lineEntry_keeps (s : State) : KeepsStoreAndTable s (lineEntry s) := by
  unfold lineEntry
  simp only
  split <;> exact .refl ..

theorem leaveWantSet_keeps (m : Master) (s : State) : KeepsStoreAndTable s (leaveWantSet m s) := by
  unfold leaveWantSet
  simp only
  split
  · exact (goDown_keeps _).of_same rfl rfl
  · exact .refl ..

theorem detect_keeps (runs : List Rat) (s : State) : KeepsStoreAndTable s (detect runs s) := by
  unfold detect
  split
  · split
    · exact .refl ..
    · simp only
      split
      · unfold measure
        simp only
        split
        · exact (abandonReception_keeps s).trans (.refl ..)
        · split <;> exact .refl ..
      · exact .refl ..
  · exact .refl ..

theorem reportFrame_keeps (good : Bool) (s : State) : KeepsStoreAndTable s (reportFrame good s) := by
  unfold reportFrame
  split
  · exact .refl ..
  · exact .refl ..
  · split
    · split
      · exact .refl ..
      · exact (abandonReception_keeps s).trans (.refl ..)
    · exact goSeek_keeps s
  · split
    · exact .refl ..
    · split
      · exact .refl ..
      · split
        · exact .refl ..
        · exact (goSeek_keeps _).of_same rfl rfl

/-! ### Delivery -/

theorem Store.writeImage_eq (st : Store) (b : BufferId) (k : Nat) (image : List Byte) : st.writeImage b k image =
    { st with mem := (st.writeImage b k image).mem, upsets := (st.writeImage b k image).upsets } := by
  fun_induction Store.writeImage st b k image with
  | case1 st k a0 a1 a2 a3 a4 a5 a6 a7 rest ih => exact ih
  | case2 => rfl
  | case3 => rfl

theorem fanOut_keeps (targets : MasterSet) (e : DeliveryEntry) (s : State) : KeepsStoreAndTable s (fanOut targets e s) := by
  unfold fanOut
  simp only
  split
  · exact store_leaveUse_keeps e.buffer s
  · exact setState_keeps e.buffer _ s

theorem deliverTo_keeps (targets : MasterSet) (h : Header) (b : Option BufferId) (late : Bool) (s : State) :
    KeepsStoreAndTable s (deliverTo targets h b late s) := by
  cases b with
  | none => exact .refl ..
  | some b => exact fanOut_keeps ..

theorem loopBackCopy_keeps (sender : Master) (copy : List Byte) (s : State) :
    KeepsStoreAndTable s (loopBackCopy sender copy s) := by
  unfold loopBackCopy
  simp only
  split
  · exact .refl ..
  · rename_i b rest hq
    have claimed : StoreAndTableKept s.store s.table { s.store with freeQueue := rest } s.table :=
      .of_records rfl fun _ => rfl
    have written : StoreAndTableKept { s.store with freeQueue := rest } s.table
        ({ s.store with freeQueue := rest }.writeImage b 0 copy) s.table :=
      .of_bytes (Store.writeImage_eq ..) fun h => h.writeImage ..
    exact claimed.trans (written.trans ((fanOut_keeps ..).of_same rfl rfl))

theorem capture_keeps (r : Running) (outcome : AwaitOutcome) (b : Option BufferId) (s : State) :
    KeepsStoreAndTable s (capture r outcome b s) := by
  unfold capture
  cases b with
  | none =>
    exact ((leaveUse_keeps r.job.reply (noBufferAt _ s)).of_same rfl rfl).trans ((nextOrder_keeps _).of_same rfl rfl)
  | some b =>
    exact (setState_keeps b _ s).trans ((leaveUse_keeps ..).trans ((nextOrder_keeps _).of_same rfl rfl))

theorem deliverReply_keeps (outcome : AwaitOutcome) (h : Header) (b : Option BufferId) (s : State) :
    KeepsStoreAndTable s (deliverReply outcome h b s) := by
  unfold deliverReply
  split
  · exact capture_keeps ..
  · simp only
    split
    · exact deliverTo_keeps ..
    · split
      · exact deliverTo_keeps ..
      · split
        · exact (deliverTo_keeps ..).of_same rfl rfl
        · exact deliverTo_keeps ..

theorem deliverRequest_keeps (h : Header) (b : Option BufferId) (s : State) :
    KeepsStoreAndTable s (deliverRequest h b s) := by
  unfold deliverRequest
  simp only
  split
  · exact leaveUse_keeps ..
  · split
    · split <;> exact .refl ..
    · rename_i b
      split
      · exact deliverTo_keeps ..
      · split <;> exact store_leaveUse_keeps b s

theorem deliver_keeps (h : Header) (b : Option BufferId) (s : State) : KeepsStoreAndTable s (deliver h b s) := by
  unfold deliver
  split
  · exact (leaveUse_keeps b s).trans (.refl ..)
  · exact (leaveUse_keeps b s).trans (.refl ..)
  · exact deliverReply_keeps ..
  · exact deliverReply_keeps ..
  · split
    · exact deliverRequest_keeps ..
    · exact deliverTo_keeps ..
  · exact deliverTo_keeps ..
  · exact leaveUse_keeps ..

end Sys2Proof.Machine
end

section
/-!
PROOFS. What the commands, the receiver, the transmitter and the events keep of the laws of O56, and that every step keeps them.
-/

namespace Sys2Proof.Machine

/-! ### The address table's commands -/

theorem MasterSet.one_le_size (ms : MasterSet) : 1 ≤ MasterSet.size ms ↔ ms.isEmpty = false := by
  obtain ⟨a, b, c, d⟩ := ms
  cases a <;> cases b <;> cases c <;> cases d <;> decide

theorem MasterSet.size_erase_le (ms : MasterSet) (m : Master) : MasterSet.size (ms.erase m) ≤ MasterSet.size ms := by
  obtain ⟨a, b, c, d⟩ := ms
  cases m <;> simp [MasterSet.size, MasterSet.erase, PerMaster.set]

theorem MasterSet.size_singleton (m : Master) : MasterSet.size (MasterSet.singleton m) = 1 := by cases m <;> rfl

theorem MasterSet.isEmpty_insert (ms : MasterSet) (m : Master) : (ms.insert m).isEmpty = false := by
  rw [← Bool.not_eq_true, MasterSet.isEmpty_iff]
  intro h
  simpa [MasterSet.get_insert] using h m

theorem not_isUnicast_of_isGroup {a : Byte} (h : isGroup a = true) : isUnicast a = false := by
  simp only [isGroup, Bool.and_eq_true, decide_eq_true_eq] at h
  simp only [isUnicast, Bool.and_eq_false_iff, decide_eq_false_iff_not]
  omega

theorem entryFor_eq_none {table : List TableEntry} {a : Byte} (h : entryFor table a = none) :
    a ∉ table.map TableEntry.address := by
  unfold entryFor at h
  rw [List.find?_eq_none] at h
  rintro hm
  obtain ⟨e, he, rfl⟩ := List.mem_map.mp hm
  simpa using h e he

theorem entryFor_eq_some {table : List TableEntry} {a : Byte} {e : TableEntry} (h : entryFor table a = some e) :
    e ∈ table ∧ e.address = a :=
  ⟨List.mem_of_find?_eq_some h, by simpa using List.find?_some h⟩

namespace LawfulTable

variable {table : List TableEntry}

theorem append (h : LawfulTable table) {a : Byte} {ms : MasterSet} (hn : entryFor table a = none)
    (hc : ¬Config.tableCapacity ≤ table.length) (he : (⟨a, ms⟩ : TableEntry).lawful) : LawfulTable (table ++ [⟨a, ms⟩]) := by
  obtain ⟨-, hd, hl⟩ := h
  refine ⟨?_, ?_, fun e h => ?_⟩
  · rw [Config.tableCapacity] at hc
    simp only [List.length_append, List.length_singleton]
    omega
  · rw [List.map_append, List.map_singleton, ← List.concat_eq_append]
    exact hd.concat (entryFor_eq_none hn)
  · rcases List.mem_append.mp h with h | h
    · exact hl e h
    · rw [List.mem_singleton.mp h]
      exact he

theorem withoutEntry (h : LawfulTable table) (a : Byte) : LawfulTable (withoutEntry table a) :=
  ⟨(List.length_filter_le ..).trans h.1, (List.filter_sublist.map _).nodup h.2.1, fun e he => h.2.2 e (List.mem_of_mem_filter he)⟩

theorem withSubscribers (h : LawfulTable table) {a : Byte} {ms : MasterSet} (hg : isGroup a = true) (hm : ms.isEmpty = false) :
    LawfulTable (withSubscribers table a ms) := by
  obtain ⟨hn, hd, hl⟩ := h
  have ha : (Machine.withSubscribers table a ms).map TableEntry.address = table.map TableEntry.address := by
    simp only [Machine.withSubscribers, List.map_map]
    refine List.map_congr_left fun e _ => ?_
    simp only [Function.comp_apply]
    split <;> rfl
  refine ⟨by simpa [Machine.withSubscribers] using hn, by rw [ha]; exact hd, fun e he => ?_⟩
  obtain ⟨x, hx, rfl⟩ := List.mem_map.mp he
  split
  · exact .inr ⟨by simp only [*], (MasterSet.one_le_size ms).mpr hm⟩
  · exact hl x hx

theorem withoutMaster (h : LawfulTable table) (m : Master) : LawfulTable (withoutMaster table m) := by
  obtain ⟨hn, hd, hl⟩ := h
  refine ⟨(List.length_filter_le ..).trans (by simpa using hn), ?_, fun e he => ?_⟩
  · refine (List.filter_sublist.map _).nodup ?_
    rw [List.map_map]
    exact hd
  · obtain ⟨he, hs⟩ := List.mem_filter.mp he
    obtain ⟨x, hx, rfl⟩ := List.mem_map.mp he
    have hpos := (MasterSet.one_le_size (x.subscribers.erase m)).mpr (by simpa using hs)
    have hle := MasterSet.size_erase_le x.subscribers m
    rcases hl x hx with ⟨hu, h1⟩ | ⟨hg, -⟩
    · exact .inl ⟨hu, by simp only; omega⟩
    · exact .inr ⟨hg, hpos⟩

theorem nil : LawfulTable [] := ⟨Nat.zero_le _, List.nodup_nil, fun _ h => absurd h List.not_mem_nil⟩

end LawfulTable

theorem setTable_keeps {table : List TableEntry} {s : State} (h : LawfulTable s.table → LawfulTable table) :
    KeepsStoreAndTable s (setTable table s) := ⟨id, id, h⟩

theorem claim_keeps (m : Master) (a : Byte) (s : State) : KeepsStoreAndTable s (claim m a s).state := by
  unfold claim
  split
  · exact .refl ..
  · rename_i hu
    split
    · split <;> exact .refl ..
    · rename_i hn
      split
      · exact .refl ..
      · exact setTable_keeps fun h => h.append hn ‹_› (.inl ⟨by simpa using hu, MasterSet.size_singleton m⟩)

theorem drop_keeps (m : Master) (a : Byte) (s : State) : KeepsStoreAndTable s (drop m a s).state := by
  unfold drop
  split
  · exact .refl ..
  · split
    · exact .refl ..
    · split
      · exact setTable_keeps fun h => h.withoutEntry a
      · exact .refl ..

theorem join_keeps (m : Master) (g : Byte) (s : State) : KeepsStoreAndTable s (join m g s).state := by
  unfold join
  split
  · exact .refl ..
  · rename_i hg
    have hg : isGroup g = true := by simpa using hg
    split
    · split
      · exact .refl ..
      · exact setTable_keeps fun h => h.withSubscribers hg (MasterSet.isEmpty_insert ..)
    · split
      · exact .refl ..
      · exact setTable_keeps fun h => h.append ‹_› ‹_› (.inr ⟨hg, (MasterSet.size_singleton m).ge⟩)

theorem leave_keeps (m : Master) (g : Byte) (s : State) : KeepsStoreAndTable s (leave m g s).state := by
  unfold leave
  split
  · exact .refl ..
  · rename_i hg
    have hg : isGroup g = true := by simpa using hg
    split
    · exact .refl ..
    · split
      · simp only
        split
        · exact setTable_keeps fun h => h.withoutEntry g
        · exact setTable_keeps fun h => h.withSubscribers hg (Bool.eq_false_iff.mpr ‹_›)
      · exact .refl ..

/-! ### The frame store's commands -/

theorem Store.claimHead_eq {st st' : Store} {v : BufferState} {b : BufferId} (h : st.claimHead v = some (b, st')) :
    ∃ rest, st.freeQueue = b :: rest ∧ st' = { st.setState b v with freeQueue := rest } := by
  unfold Store.claimHead at h
  split at h
  · cases h
  · cases h
    exact ⟨_, ‹_›, rfl⟩

theorem claimHead_keeps {s : State} {v : BufferState} {b : BufferId} {st : Store} (h : s.store.claimHead v = some (b, st)) :
    KeepsStoreAndTable s { s with store := st } := by
  obtain ⟨rest, -, rfl⟩ := Store.claimHead_eq h
  exact .of_records rfl (s.store.damaged_setState b v)

theorem alloc_keeps (m : Master) (s : State) : KeepsStoreAndTable s (alloc m s).state := by
  unfold alloc
  split
  · exact .refl ..
  · split
    · exact .refl ..
    · split
      · exact .refl ..
      · exact claimHead_keeps ‹_›

theorem free_keeps (m : Master) (n : Half) (s : State) : KeepsStoreAndTable s (free m n s).state := by
  unfold free
  split
  · exact .refl ..
  · rename_i b _
    split
    · split
      · exact store_leaveUse_keeps b s
      · exact .refl ..
    · split
      · simp only
        split
        · exact store_leaveUse_keeps b s
        · exact setState_keeps b _ s
      · exact .refl ..
    · exact .refl ..

theorem adopt_keeps (m : Master) (n : Half) (s : State) : KeepsStoreAndTable s (adopt m n s).state := by
  unfold adopt
  split
  · exact .refl ..
  · rename_i b _
    split
    · split
      · exact .refl ..
      · exact setState_keeps b _ s
    · exact .refl ..

theorem writeWord_keeps (w : WordNo) (bytes : List Byte) (s : State) :
    KeepsStoreAndTable s { s with store := s.store.writeWord w bytes } := .of_bytes rfl fun h => h.writeWord w bytes

theorem writeOneWord_keeps (b : BufferId) (k offset : Nat) (data : List Byte) (s : State) :
    KeepsStoreAndTable s (writeOneWord b k offset data s) := by
  unfold writeOneWord
  simp only
  split
  · exact writeWord_keeps ..
  · split
    · exact readWord_keeps ..
    · exact (readWord_keeps (wordOf b k) s).trans (writeWord_keeps _ _ (readWord (wordOf b k) s).2)

theorem writeWords_keeps (b : BufferId) (offset : Nat) (data : List Byte) (ks : List Nat) (s : State) :
    KeepsStoreAndTable s (writeWords b offset data ks s) := by
  induction ks generalizing s with
  | nil => exact .refl ..
  | cons k rest ih => exact (writeOneWord_keeps b k offset data s).trans (ih _)

theorem write_keeps (m : Master) (n offset count : Half) (data : List Byte) (s : State) :
    KeepsStoreAndTable s (write m n offset count data s).state := by
  unfold write
  split
  · exact .refl ..
  · split
    · exact .refl ..
    · split
      · exact .refl ..
      · split
        · exact .refl ..
        · exact writeWords_keeps ..

theorem read_keeps (m : Master) (n offset count : Half) (s : State) : KeepsStoreAndTable s (read m n offset count s).state := by
  unfold read
  split
  · exact .refl ..
  · split
    · exact .refl ..
    · split
      · exact .refl ..
      · exact readWords_keeps ..

theorem Store.Canonical.scrub {st : Store} (h : st.Canonical) (b : BufferId) : (st.scrub b).Canonical := by
  have hr : ∀ u : Store, u.Canonical → ∀ r ws, ({ u.setBuffer b r with damagedWords := ws } : Store).Canonical := fun _ h _ _ => h
  exact hr _ (h.zeroBuffer b) _ _

theorem store_scrub_keeps (b : BufferId) (s : State) : KeepsStoreAndTable s { s with store := s.store.scrub b } :=
  ⟨fun h => h.scrub b, fun h => h.scrub b, id⟩

theorem scrub_keeps (m : Master) (n : Half) (s : State) : KeepsStoreAndTable s (scrub m n s).state := by
  unfold scrub
  split
  · exact .refl ..
  · rename_i b _
    split
    · split
      · exact store_scrub_keeps b s
      · exact .refl ..
    · exact (store_scrub_keeps b s).trans (store_leaveUse_keeps b { s with store := s.store.scrub b })
    · exact .refl ..

/-! ### The job engine's commands and PORT RESET -/

theorem readHeaders_keeps (bs : List BufferId) (s : State) : KeepsStoreAndTable s (readHeaders bs s).2 := by
  induction bs generalizing s with
  | nil => exact .refl ..
  | cons b rest ih => exact (readWord_keeps (wordOf b 0) s).trans (ih _)

theorem takeJob_keeps (m : Master) (orders : List JobOrder) (bs : List BufferId) (s : State) :
    KeepsStoreAndTable s (takeJob m orders bs s).state := by
  show StoreAndTableKept s.store s.table (bs.foldl (fun st b => st.setState b (.inJob m (newTag m s))) s.store) s.table
  generalize newTag m s = tag
  generalize s.store = st
  induction bs generalizing st with
  | nil => exact .refl ..
  | cons b rest ih => exact StoreAndTableKept.trans (.of_records rfl (st.damaged_setState b _)) (ih _)

theorem submit_keeps (m : Master) (count : Byte) (orders : List OrderBytes) (s : State) :
    KeepsStoreAndTable s (submit m count orders s).state := by
  unfold submit
  simp only
  split
  · exact .refl ..
  · split
    · exact .refl ..
    · split
      · exact .refl ..
      · split
        · exact .refl ..
        · split
          · exact readHeaders_keeps ..
          · split
            · exact readHeaders_keeps ..
            · exact (readHeaders_keeps ..).trans (takeJob_keeps ..)

theorem cancel_keeps (m : Master) (tag : Byte) (s : State) : KeepsStoreAndTable s (cancel m tag s).state := by
  unfold cancel
  split
  · exact .of_records rfl (s.store.damaged_returnJob m tag)
  · split
    · split
      · exact endInProgress_keeps ..
      · exact .refl ..
    · exact .refl ..

theorem takeDelivery_keeps (m : Master) (s : State) : KeepsStoreAndTable s (takeDelivery m s).state := by
  unfold takeDelivery
  split
  · exact .refl ..
  · rename_i e _ _
    unfold Store.takeFrom
    simp only
    split
    · exact setState_keeps e.buffer _ s
    · exact .refl ..

theorem resetStore_keeps (m : Master) (s : State) : KeepsStoreAndTable s (resetStore m s) := by
  obtain ⟨hb, hs⟩ := s.store.resetPort_spec m (takesLineDown m s)
  have hq : (s.store.resetPort m (takesLineDown m s)).freeQueue = queueAfterReset m (takesLineDown m s) s.store := by rw [hs]
  rw [← hq] at hs
  refine .of_records hs fun b => ?_
  show ((s.store.resetPort m (takesLineDown m s)).buffer b).damaged = _
  rw [hb]
  exact BufferRecord.damaged_afterReset ..

theorem portReset_keeps (m : Master) (s : State) : KeepsStoreAndTable s (portReset m s).state := by
  have jobs : KeepsStoreAndTable s (resetJobs m s) := by
    rw [resetJobs_eq]
    exact .refl ..
  have table : ∀ u, KeepsStoreAndTable u (setTable (withoutMaster u.table m) u) := fun u => setTable_keeps fun h => h.withoutMaster m
  refine .trans ?_ (leaveWantSet_keeps m _)
  refine .trans ?_ (resetStore_keeps m _)
  exact jobs.trans (table (resetDelivery m (resetJobs m s)))

theorem lineSet_keeps (m : Master) (record : SettingsBytes) (s : State) : KeepsStoreAndTable s (lineSet m record s).state := by
  unfold lineSet
  split
  · exact .refl ..
  · split
    · unfold applySettings
      simp only
      split
      · exact .refl ..
      · refine .trans ?_ (lineEntry_keeps _)
        exact (goDown_keeps _).of_same rfl rfl
    · exact .refl ..

theorem wantLine_keeps (m : Master) (s : State) : KeepsStoreAndTable s (wantLine m s).state := by
  unfold wantLine
  simp only
  split
  · exact (lineEntry_keeps _).of_same rfl rfl
  · exact .refl ..

/-- The effect of every command keeps the laws of O56. -/
theorem effect_keeps {i : Instr} {e : State → Reply} (h : effectOf i = some e) (s : State) : KeepsStoreAndTable s (e s).state := by
  cases i <;> simp only [effectOf, Option.some.injEq, reduceCtorEq] at h <;> subst h
  case claim m a => exact claim_keeps m a s
  case drop m a => exact drop_keeps m a s
  case join m a => exact join_keeps m a s
  case leave m a => exact leave_keeps m a s
  case alloc m => exact alloc_keeps m s
  case free m n => exact free_keeps m n s
  case adopt m n => exact adopt_keeps m n s
  case write m n o c d => exact write_keeps m n o c d s
  case read m n o c => exact read_keeps m n o c s
  case scrub m n => exact scrub_keeps m n s
  case submit m c o => exact submit_keeps m c o s
  case cancel m t => exact cancel_keeps m t s
  case takeDelivery m => exact takeDelivery_keeps m s
  case portReset m => exact portReset_keeps m s
  case lineSet m r => exact lineSet_keeps m r s
  case wantLine m => exact wantLine_keeps m s
  case unwantLine m => exact leaveWantSet_keeps m s
  case relearn m =>
    unfold relearn
    split
    · exact goSeek_keeps s
    · exact .refl ..
  case portSet =>
    unfold portSet
    split <;> exact .refl ..
  case tableRead =>
    unfold tableRead
    split
    · exact .refl ..
    · split <;> exact .refl ..
  case takeCompletion =>
    unfold takeCompletion
    split <;> exact .refl ..
  case notice =>
    unfold notice
    split <;> exact .refl ..
  case release =>
    unfold release
    split
    · exact .refl ..
    · split <;> exact .refl ..
  case mask =>
    unfold mask
    split <;> exact .refl ..
  all_goals exact .refl ..

/-! ### The events -/

theorem startFrame_keeps (data : Byte) (stop : Bool) (s : State) : KeepsStoreAndTable s (startFrame data stop s) := by
  unfold startFrame
  simp only
  split
  · split
    · split
      · exact claimHead_keeps ‹_›
      · exact .refl ..
    · exact .refl ..
  · exact .refl ..

theorem endBadFrame_keeps (e : ReceiveError) (f : Frame) (s : State) : KeepsStoreAndTable s (endBadFrame e f s) :=
  (leaveUse_keeps f.buffer (countAll e.counter s)).of_same rfl rfl

theorem takeAddress_keeps (data : Byte) (stop : Bool) (s : State) : KeepsStoreAndTable s (takeAddress data stop s) := by
  unfold takeAddress
  split
  · exact startFrame_keeps ..
  · refine .trans ?_ ((startFrame_keeps data stop _).trans (reportFrame_keeps false _))
    exact (endBadFrame_keeps ..).of_same rfl rfl

theorem ite_keeps {c : Prop} [Decidable c] {s t u : State} (ht : KeepsStoreAndTable s t) (hu : KeepsStoreAndTable s u) :
    KeepsStoreAndTable s (if c then t else u) := by
  split
  · exact ht
  · exact hu

theorem placeByte_keeps (data : Byte) (p : Nat) (length : Option Byte) (b : BufferId) (f : Frame) (s : State) :
    KeepsStoreAndTable s (placeByte data p length b f s) := by
  unfold placeByte
  simp only
  generalize (_ || _ : Bool) = full
  cases full
  · exact .refl ..
  · exact writeWord_keeps _ _ s

theorem takeBody_keeps (data : Byte) (stop : Bool) (s : State) : KeepsStoreAndTable s (takeBody data stop s) := by
  unfold takeBody
  split
  · exact .refl ..
  · unfold extendFrame
    simp only
    split
    · exact ite_keeps (placeByte_keeps ..) (.refl ..)
    · exact .refl ..

theorem receiveCharacter_keeps {take : State → State} (ht : ∀ s, KeepsStoreAndTable s (take s)) (low : Nat) (runs : List Rat)
    (s : State) : KeepsStoreAndTable s (receiveCharacter take low runs s) := by
  have idle : ∀ n u, KeepsStoreAndTable u (restartIdle n u) := fun n u =>
    (StoreAndTableKept.refl ..).of_same (restartIdle_store n u) (restartIdle_table n u)
  have arrives : KeepsStoreAndTable s (characterArrives low s) := by
    unfold characterArrives characterTime
    exact (StoreAndTableKept.refl ..).of_same (by simp) (by simp)
  unfold receiveCharacter
  split
  · exact .refl ..
  · unfold hearCharacter
    split
    · simp only
      split
      · exact (arrives.trans (ht _)).trans (detect_keeps ..)
      · exact arrives.trans (ht _)
    · exact idle low s
    · exact (idle low _).of_same rfl rfl

theorem endFrame_keeps (f : Frame) (s : State) : KeepsStoreAndTable s (endFrame f s) := by
  unfold endFrame
  split
  · exact (endBadFrame_keeps ..).trans (reportFrame_keeps ..)
  · refine StoreAndTableKept.trans ?_ (reportFrame_keeps true _)
    split
    · exact deliver_keeps ..
    · exact .refl ..

theorem attemptCollided_keeps (r : Running) (s : State) : KeepsStoreAndTable s (attemptCollided r s) := by
  unfold attemptCollided
  split
  · exact endJob_keeps ..
  · split
    · simp only
      split
      · exact (beginAttempt_keeps ..).of_same rfl rfl
      · exact .refl ..
    · exact endJob_keeps ..

theorem attemptCompleted_keeps (r : Running) (a : Attempt) (s : State) : KeepsStoreAndTable s (attemptCompleted r a s) := by
  have copied : ∀ u, KeepsStoreAndTable u (if a.loopBack then loopBackCopy r.job.master a.copy u else u) := by
    intro u
    split
    · exact loopBackCopy_keeps ..
    · exact .refl ..
  unfold attemptCompleted
  simp only
  split
  · exact ((copied _).trans (endJob_keeps ..)).of_same rfl rfl
  · exact ((copied _).trans (nextOrder_keeps _)).of_same rfl rfl

theorem turnaroundEnds_keeps (s : State) : KeepsStoreAndTable s (turnaroundEnds s) := by
  unfold turnaroundEnds
  split
  · unfold releaseDriver
    split
    · exact .refl ..
    · split
      · exact .refl ..
      · split
        · exact .refl ..
        · split
          · exact (attemptCollided_keeps ..).of_same rfl rfl
          · exact (attemptCompleted_keeps ..).of_same rfl rfl
  · exact .refl ..

theorem characterSent_keeps (echo : BitVec 11) (low : Nat) (s : State) : KeepsStoreAndTable s (characterSent echo low s) := by
  unfold characterSent
  split
  · unfold finishCharacter characterLeaves
    split
    · exact (StoreAndTableKept.refl ..).of_same (by simp [sendOn]) (by simp [sendOn])
    · split
      · exact (StoreAndTableKept.refl ..).of_same (by simp) (by simp)
      · exact (StoreAndTableKept.refl ..).of_same (by simp [sendOn]) (by simp [sendOn])
  · exact .refl ..

theorem upsetWord_keeps (w : WordNo) (bit : Fin 72) (s : State) : KeepsStoreAndTable s (upsetWord w bit s) := by
  have added : ∀ u : State, KeepsStoreAndTable u { u with store := u.store.addUpset w (upsetMask bit) } := fun u =>
    .of_bytes (by simp only; rw [u.store.addUpset_eq]) fun h => h.addUpset w _
  unfold upsetWord
  split
  · exact .refl ..
  · split
    · simp only
      split
      · exact added s
      · exact .refl ..
    · exact added s

theorem patrol_keeps (s : State) : KeepsStoreAndTable s (patrol s) := by
  have index : ∀ (u : State) (i : WordNo), KeepsStoreAndTable u { u with store := { u.store with patrolIndex := i } } :=
    fun u i => ⟨id, id, id⟩
  unfold patrol
  simp only
  split
  · exact index s _
  · exact (readWord_keeps s.store.patrolIndex s).trans (index _ _)

theorem Store.Canonical.reset {us : List Upset} (h : us.Pairwise fun u v => u.word < v.word) :
    ({ Store.reset with upsets := us } : Store).Canonical := ⟨rfl, fun _ h => absurd h List.not_mem_nil, h⟩

theorem Store.ListsDamage.reset (us : List Upset) : ({ Store.reset with upsets := us } : Store).ListsDamage :=
  ⟨Nat.zero_le _, List.nodup_nil, fun _ h => absurd h List.not_mem_nil⟩

theorem startUpClearEnd_keeps {s t : State} (h : exec .startUpClearEnd s = .next t) : KeepsStoreAndTable s t := by
  cases h
  split
  · exact ⟨fun h => .reset h.2.2, fun _ => .reset s.store.upsets, fun _ => .nil⟩
  · exact .refl ..

theorem event_keeps {i : Instr} {s t : State} (hi : effectOf i = none) (hb : ∀ m b, i ≠ .byteArrives m b)
    (h : exec i s = .next t) : KeepsStoreAndTable s t := by
  cases i <;> simp only [effectOf, reduceCtorEq] at hi
  case powerOn => cases h; exact ⟨fun _ => .reset .nil, fun _ => .reset [], fun _ => .nil⟩
  case startUpClearEnd => exact startUpClearEnd_keeps h
  case storeUpset w bit =>
    simp only [exec, execStoreUpset] at h
    split at h
    · cases h
      exact upsetWord_keeps ..
    · cases h
  case patrolVisit =>
    cases h
    split
    · exact .refl ..
    · exact patrol_keeps s
  case csFalls =>
    cases h
    split <;> exact .refl ..
  case csRises => cases h; exact .refl ..
  case unknownCommand =>
    cases h
    split <;> exact .refl ..
  case addressCharacter data stop runs low =>
    cases h
    exact (takeAttempt_keeps s).trans (receiveCharacter_keeps (takeAddress_keeps data stop) ..)
  case bodyCharacter data stop runs low =>
    cases h
    exact (takeAttempt_keeps s).trans (receiveCharacter_keeps (takeBody_keeps data stop) ..)
  case frameEnd =>
    have began : KeepsStoreAndTable s (attemptBeforeFrameEnd s) := by
      unfold attemptBeforeFrameEnd
      split
      · exact .refl ..
      · exact takeAttempt_keeps s
    simp only [exec, execFrameEnd] at h
    split at h <;> cases h
    · exact .refl ..
    · exact began.trans ((endFrame_keeps ..).of_same rfl rfl)
  case attemptBeginsSending =>
    cases h
    refine (takeAttempt_keeps s).trans ?_
    unfold sendAttempt
    split
    · split <;> exact .refl ..
    · exact .refl ..
  case automaticBusyStart =>
    cases h
    refine (takeAttempt_keeps s).trans ?_
    unfold sendBusy
    split
    · split <;> exact .refl ..
    · exact .refl ..
  case characterSent => cases h; exact (takeAttempt_keeps s).trans (characterSent_keeps ..)
  case deRelease => cases h; exact (takeAttempt_keeps s).trans (turnaroundEnds_keeps _)
  case grant =>
    simp only [exec, execGrant] at h
    split at h
    · split at h <;> cases h
      · exact (orderReached_keeps ..).of_same rfl rfl
      · exact .refl ..
    · cases h
      exact .refl ..
  case responseTimerExpiry =>
    cases h
    refine (takeAttempt_keeps s).trans ?_
    unfold responseExpires
    split
    · refine .trans ?_ (nextOrder_keeps _)
      exact (silenceAwait_keeps _).of_same rfl rfl
    · exact .refl ..
  case waitTimerExpiry =>
    cases h
    refine (takeAttempt_keeps s).trans ?_
    unfold waitExpires
    split
    · exact (nextOrder_keeps _).of_same rfl rfl
    · exact .refl ..
  case tenureTimerExpiry =>
    cases h
    refine (takeAttempt_keeps s).trans ?_
    unfold tenureExpires
    split
    · exact (endInProgress_keeps ..).of_same rfl rfl
    · exact .refl ..
  case silenceTimeout =>
    cases h
    refine (takeAttempt_keeps s).trans ?_
    unfold silenceExpires
    split
    · unfold timeOut
      simp only
      split
      · exact (goSeek_keeps _).of_same rfl rfl
      · exact (StoreAndTableKept.refl ..).of_same (by simp) (by simp)
    · exact .refl ..
  case qualificationWindowExpiry =>
    cases h
    refine (takeAttempt_keeps s).trans ?_
    unfold windowExpires
    split
    · exact (goSeek_keeps _).of_same rfl rfl
    · exact .refl ..
  case holdEntryExpiry =>
    cases h
    refine (takeAttempt_keeps s).trans ?_
    unfold holdExpires
    split <;> exact .refl ..
  case syncEdge =>
    cases h
    split <;> exact .refl ..
  case timeBaseIncrement =>
    cases h
    refine (takeAttempt_keeps s).trans ?_
    unfold countMicrosecond
    split <;> exact .refl ..
  case byteArrives m b => exact absurd rfl (hb m b)
  case answerByteClockedOut => cases h; exact .refl ..

/-- Every step keeps the laws of O56. -/
theorem step_keepsStoreAndTable {s t : State} (h : step s = .next t) : KeepsStoreAndTable s t :=
  step_induction (R := KeepsStoreAndTable) (fun _ => .refl ..) .trans (fun _ h => h) takeAttempt_keeps (fun _ _ _ => .refl ..)
    effect_keeps (fun _ _ => .refl ..) event_keeps h

/-- Settles O56: each operation of the model keeps the three laws, so every step does. -/
theorem stepKeepsStoreAndTable : Obligations.StepKeepsStoreAndTable := by
  unfold Obligations.StepKeepsStoreAndTable
  exact ⟨fun s t hs h => (step_keepsStoreAndTable h).form hs, fun s t hs h => (step_keepsStoreAndTable h).damage hs,
    fun s t hs h => (step_keepsStoreAndTable h).table hs⟩

end Sys2Proof.Machine
end

section
/-!
PROOFS. The laws of jobs, buffers and inbound queues as properties of the blocks they speak of: the job records, the buffer records
with the free queue, and the inbound queues; and how each of them bears a change of one buffer (R5 to R9, R87, R112, R113).
-/

namespace Sys2Proof.Machine

/-! ### The laws, block by block -/

/-- The tags in use by a master, from the job engine's state alone (R112). -/
def Jobs.tags (jobs : Jobs) (m : Master) : List Byte :=
  (jobs.outbound.get m).map Job.tag ++
    (match jobs.running with
      | some r => if r.job.master = m then [r.job.tag] else []
      | none => []) ++
    (jobs.completions.get m).map Completion.tag

theorem tagsInUse_eq (m : Master) (s : State) : tagsInUse m s = s.jobs.tags m := rfl

theorem jobCount_eq (m : Master) (s : State) : jobCount m s = (s.jobs.tags m).length := by
  unfold jobCount Jobs.tags
  simp only [List.length_append, List.length_map]
  congr 2
  cases s.jobs.running with
  | none => rfl
  | some r =>
    simp only
    split <;> rfl

/-- The laws of the job records (R112, R113). -/
structure Jobs.Lawful (jobs : Jobs) : Prop where
  count : ∀ m, (jobs.tags m).length ≤ 8
  nodup : ∀ m, (jobs.tags m).Nodup
  queued : ∀ m, ∀ j ∈ jobs.outbound.get m, j.master = m ∧ j.reply = none

theorem jobLaw_iff (s : State) : JobLaw s ↔ s.jobs.Lawful := by
  constructor
  · intro h
    refine ⟨fun m => ?_, fun m => ?_, fun m => ?_⟩ <;> obtain ⟨hc, hn, hq⟩ := h m m.mem_all
    · rwa [jobCount_eq] at hc
    · exact hn
    · exact hq
  · rintro ⟨hc, hn, hq⟩ m -
    exact ⟨by rw [jobCount_eq]; exact hc m, hn m, hq m⟩

/-- No FREE and no FILLING record is damaged and every QUARANTINED one is (R22 to R24). -/
structure BufferRecord.Sound (r : BufferRecord) : Prop where
  free : r.state = .free → r.damaged = false
  quarantined : r.state = .quarantined → r.damaged = true
  filling : r.state = .filling → r.damaged = false

/-- The laws of the buffer records and the free queue, where `fill` are the buffers being filled (R5, R7, R58). -/
structure Store.Lawful (fill : Set BufferId) (st : Store) : Prop where
  nodup : st.freeQueue.Nodup
  free : ∀ b, b ∈ st.freeQueue ↔ (st.buffer b).state = .free
  sound : ∀ b, (st.buffer b).Sound
  filling : ∀ b, (st.buffer b).state = .filling ↔ b ∈ fill

/-- What a RUNNING job holds: the buffers of its SEND orders and its reply buffer (R6), and a due attempt is of its order in progress
(R147). -/
structure Running.Holds (r : Running) (st : Store) : Prop where
  sends : r.job.holdsBuffers st
  reply : ∀ b, r.job.reply = some b → (st.buffer b).state = .inJob r.job.master r.job.tag ∧ b ∉ r.job.sendBuffers
  due : ∀ b h, r.doing = .due b h → ∃ header, r.job.orders[r.job.index]? = some ⟨.send b, header⟩

/-- The buffers of QUEUED and RUNNING jobs are IN-JOB of them (R6, R113). -/
structure Jobs.Hold (jobs : Jobs) (st : Store) : Prop where
  queued : ∀ m, ∀ j ∈ jobs.outbound.get m, j.holdsBuffers st
  running : ∀ r, jobs.running = some r → r.Holds st

/-- The laws of jobs and buffers together. -/
structure Lawful (fill : Set BufferId) (st : Store) (jobs : Jobs) : Prop where
  queues : jobs.Lawful
  records : st.Lawful fill
  held : jobs.Hold st

/-- The laws of the inbound queues (R5, R87, R105, R106). -/
structure LawfulQueues (st : Store) (inbound : PerMaster (List DeliveryEntry)) : Prop where
  room : ∀ m, (inbound.get m).length ≤ 16
  nodup : ∀ m, ((inbound.get m).map DeliveryEntry.buffer).Nodup
  pending : ∀ m b, b ∈ (inbound.get m).map DeliveryEntry.buffer ↔ (st.buffer b).state.pendingSet.get m = true
  used : ∀ b, (st.buffer b).state ≠ .delivered MasterSet.empty MasterSet.empty

/-- The buffer that a frame in progress fills, if it has one (R58). -/
def filledBy (receiver : Option Frame) : Set BufferId := {b | receiver.bind Frame.buffer = some b}

theorem lawful_iff (s : State) : Lawful (filledBy s.receiver) s.store s.jobs ↔ JobLaw s ∧ BufferLaw s := by
  rw [jobLaw_iff]
  constructor
  · rintro ⟨hj, ⟨hn, hf, hs, hl⟩, hq, hr⟩
    exact ⟨hj, hn, hf, fun b => (hs b).free, fun b => (hs b).quarantined, fun b => (hs b).filling, hl, fun m _ => hq m,
      fun r h => ⟨(hr r h).sends, (hr r h).reply, (hr r h).due⟩⟩
  · rintro ⟨hj, hn, hf, h1, h2, h3, hl, hq, hr⟩
    refine ⟨hj, ⟨hn, hf, fun b => ⟨h1 b, h2 b, h3 b⟩, hl⟩, fun m => hq m m.mem_all, fun r h => ?_⟩
    obtain ⟨hs, hp, hd⟩ := hr r h
    exact ⟨hs, hp, hd⟩

theorem deliveryLaw_iff (s : State) : DeliveryLaw s ↔ LawfulQueues s.store s.delivery.inbound := by
  constructor
  · rintro ⟨hm, hu⟩
    refine ⟨fun m => ?_, fun m => ?_, fun m => ?_, hu⟩ <;> obtain ⟨hl, hn, hp⟩ := hm m m.mem_all
    · exact hl
    · exact hn
    · exact hp
  · rintro ⟨hl, hn, hp, hu⟩
    exact ⟨fun m _ => ⟨hl m, hn m, hp m⟩, hu⟩

/-! ### A change of buffer records -/

theorem Store.Lawful.not_filling {st : Store} (h : st.Lawful ∅) (b : BufferId) : (st.buffer b).state ≠ .filling :=
  fun hb => (h.filling b).mp hb

/-- Records that stay FREE and stay FILLING where they were so leave the laws of the records as they were. -/
theorem Store.Lawful.of_records {fill : Set BufferId} {st st' : Store} (h : st.Lawful fill) (hq : st'.freeQueue = st.freeQueue)
    (hf : ∀ b, (st'.buffer b).state = .free ↔ (st.buffer b).state = .free) (hs : ∀ b, (st'.buffer b).Sound)
    (hl : ∀ b, (st'.buffer b).state = .filling ↔ (st.buffer b).state = .filling) : st'.Lawful fill :=
  ⟨by rw [hq]; exact h.nodup, fun b => by rw [hq, hf]; exact h.free b, hs, fun b => (hl b).trans (h.filling b)⟩

/-- One buffer, not FREE before, gets another record, and joins the free tail if it is FREE then. -/
theorem Store.Lawful.replace {fill fill' : Set BufferId} {st st' : Store} {b : BufferId} (h : st.Lawful fill)
    (hb : (st.buffer b).state ≠ .free) (ho : ∀ c, c ≠ b → st'.buffer c = st.buffer c) (hs : (st'.buffer b).Sound)
    (hq : st'.freeQueue = if (st'.buffer b).state = .free then st.freeQueue ++ [b] else st.freeQueue)
    (hl : ∀ c, c ∈ fill' ↔ if c = b then (st'.buffer b).state = .filling else c ∈ fill) : st'.Lawful fill' := by
  have hnot : b ∉ st.freeQueue := fun hm => hb ((h.free b).mp hm)
  refine ⟨?_, fun c => ?_, fun c => ?_, fun c => ?_⟩
  · rw [hq]
    split
    · rw [← List.concat_eq_append]
      exact h.nodup.concat hnot
    · exact h.nodup
  · by_cases hc : c = b
    · subst hc
      rw [hq]
      split
      · simpa
      · simp [*]
    · rw [ho c hc, ← h.free c, hq]
      split
      · simp [hc]
      · rfl
  · by_cases hc : c = b
    · subst hc; exact hs
    · rw [ho c hc]; exact h.sound c
  · rw [hl]
    by_cases hc : c = b
    · subst hc; simp
    · rw [if_neg hc, ho c hc]; exact h.filling c

/-- The head of the free queue claimed for a state other than FREE (R8). -/
theorem Store.Lawful.claim {fill fill' : Set BufferId} {st : Store} {b : BufferId} {rest : List BufferId} {v : BufferState}
    (h : st.Lawful fill) (hq : st.freeQueue = b :: rest) (hv : v ≠ .free) (hv' : v ≠ .quarantined)
    (hl : ∀ c, c ∈ fill' ↔ if c = b then v = .filling else c ∈ fill) :
    ({ st.setState b v with freeQueue := rest } : Store).Lawful fill' := by
  have hself : (st.setState b v).buffer b = ⟨v, false⟩ := by
    have hd := (h.sound b).free ((h.free b).mp (by rw [hq]; exact List.mem_cons_self ..))
    rw [Store.buffer_setState_self, hd]
  have hn := h.nodup
  rw [hq] at hn
  obtain ⟨hb, hr⟩ := List.nodup_cons.mp hn
  refine ⟨hr, fun c => ?_, fun c => ?_, fun c => ?_⟩
  · show c ∈ rest ↔ ((st.setState b v).buffer c).state = .free
    by_cases hc : c = b
    · subst hc; simp [hself, hv, hb]
    · rw [st.buffer_setState_of_ne hc, ← h.free c, hq]
      simp [hc]
  · show ((st.setState b v).buffer c).Sound
    by_cases hc : c = b
    · subst hc
      rw [hself]
      exact ⟨fun _ => rfl, fun e => absurd e hv', fun _ => rfl⟩
    · rw [st.buffer_setState_of_ne hc]
      exact h.sound c
  · show ((st.setState b v).buffer c).state = .filling ↔ c ∈ fill'
    rw [hl]
    by_cases hc : c = b
    · subst hc; simp [hself]
    · rw [st.buffer_setState_of_ne hc, if_neg hc]
      exact h.filling c

/-! ### What the jobs hold -/

/-- Whether some QUEUED or RUNNING job holds a buffer: one of its SEND orders names it, or it is its reply (R6, R112). -/
def Jobs.Holding (jobs : Jobs) (b : BufferId) : Prop :=
  (∃ m, ∃ j ∈ jobs.outbound.get m, b ∈ j.sendBuffers) ∨
    ∃ r, jobs.running = some r ∧ (b ∈ r.job.sendBuffers ∨ r.job.reply = some b)

/-- A buffer that is IN-JOB of nothing is held by no job. -/
theorem Jobs.Hold.not_holding {jobs : Jobs} {st : Store} (h : jobs.Hold st) {b : BufferId}
    (hb : ∀ m tag, (st.buffer b).state ≠ .inJob m tag) : ¬jobs.Holding b := by
  rintro (⟨m, j, hj, hs⟩ | ⟨r, hr, hs | hs⟩)
  · exact hb _ _ (h.queued m j hj b hs)
  · exact hb _ _ ((h.running r hr).sends b hs)
  · exact hb _ _ ((h.running r hr).reply b hs).1

/-- Records that stay IN-JOB where a job holds the buffer leave it held. -/
theorem Jobs.Hold.of_records {jobs : Jobs} {st st' : Store} (h : jobs.Hold st)
    (hb : ∀ b, jobs.Holding b → ∀ m tag, (st.buffer b).state = .inJob m tag → (st'.buffer b).state = .inJob m tag) :
    jobs.Hold st' := by
  refine ⟨fun m j hj b hs => hb b (.inl ⟨m, j, hj, hs⟩) _ _ (h.queued m j hj b hs), fun r hr => ?_⟩
  obtain ⟨hs, hp, hd⟩ := h.running r hr
  exact ⟨fun b hm => hb b (.inr ⟨r, hr, .inl hm⟩) _ _ (hs b hm),
    fun b hm => ⟨hb b (.inr ⟨r, hr, .inr hm⟩) _ _ (hp b hm).1, (hp b hm).2⟩, hd⟩

theorem Jobs.Hold.replace {jobs : Jobs} {st st' : Store} {b : BufferId} (h : jobs.Hold st)
    (ho : ∀ c, c ≠ b → st'.buffer c = st.buffer c) (hb : ¬jobs.Holding b) : jobs.Hold st' :=
  h.of_records fun c hc m tag hs => by
    rw [ho c (by rintro rfl; exact hb hc)]
    exact hs

/-! ### What the inbound queues show -/

theorem LawfulQueues.of_records {st st' : Store} {inbound : PerMaster (List DeliveryEntry)} (h : LawfulQueues st inbound)
    (hp : ∀ b m, (st'.buffer b).state.pendingSet.get m = (st.buffer b).state.pendingSet.get m)
    (hu : ∀ b, (st'.buffer b).state ≠ .delivered MasterSet.empty MasterSet.empty) : LawfulQueues st' inbound :=
  ⟨h.room, h.nodup, fun m b => by rw [hp]; exact h.pending m b, hu⟩

theorem LawfulQueues.replace {st st' : Store} {inbound : PerMaster (List DeliveryEntry)} {b : BufferId} (h : LawfulQueues st inbound)
    (ho : ∀ c, c ≠ b → st'.buffer c = st.buffer c)
    (hp : ∀ m, (st'.buffer b).state.pendingSet.get m = (st.buffer b).state.pendingSet.get m)
    (hu : (st'.buffer b).state ≠ .delivered MasterSet.empty MasterSet.empty) : LawfulQueues st' inbound := by
  refine h.of_records (fun c m => ?_) fun c => ?_
  · by_cases hc : c = b
    · subst hc; exact hp m
    · rw [ho c hc]
  · by_cases hc : c = b
    · subst hc; exact hu
    · rw [ho c hc]; exact h.used c

/-- Records whose states stay leave the queues lawful. -/
theorem LawfulQueues.of_states {st st' : Store} {inbound : PerMaster (List DeliveryEntry)} (h : LawfulQueues st inbound)
    (hs : ∀ b, (st'.buffer b).state = (st.buffer b).state) : LawfulQueues st' inbound :=
  h.of_records (fun b m => by rw [hs]) fun b => by rw [hs]; exact h.used b

/-! ### What is kept from one state to another -/

/-- The laws of jobs and buffers are kept, and where they hold those of the inbound queues too. -/
structure LawsKept (fill fill' : Set BufferId) (st : Store) (jobs : Jobs) (inbound : PerMaster (List DeliveryEntry))
    (st' : Store) (jobs' : Jobs) (inbound' : PerMaster (List DeliveryEntry)) : Prop where
  keeps : Lawful fill st jobs → Lawful fill' st' jobs' ∧ (LawfulQueues st inbound → LawfulQueues st' inbound')

/-- The laws are kept from `s`, where the buffers of `fill` are being filled, to `t`, where those of `fill'` are. -/
abbrev KeepsLaws (fill fill' : Set BufferId) (s t : State) : Prop :=
  LawsKept fill fill' s.store s.jobs s.delivery.inbound t.store t.jobs t.delivery.inbound

/-- The laws are kept from `s` to `t`, each with the buffer that its frame in progress fills. -/
abbrev KeepsAllLaws (s t : State) : Prop := KeepsLaws (filledBy s.receiver) (filledBy t.receiver) s t

namespace LawsKept

variable {fill fill' fill'' : Set BufferId} {st st' st'' : Store} {jobs jobs' jobs'' : Jobs}
  {inbound inbound' inbound'' : PerMaster (List DeliveryEntry)}

theorem refl (fill : Set BufferId) (st : Store) (jobs : Jobs) (inbound : PerMaster (List DeliveryEntry)) :
    LawsKept fill fill st jobs inbound st jobs inbound := ⟨fun h => ⟨h, id⟩⟩

theorem trans (h : LawsKept fill fill' st jobs inbound st' jobs' inbound')
    (k : LawsKept fill' fill'' st' jobs' inbound' st'' jobs'' inbound'') :
    LawsKept fill fill'' st jobs inbound st'' jobs'' inbound'' := by
  refine ⟨fun hs => ?_⟩
  obtain ⟨hl, hq⟩ := h.keeps hs
  obtain ⟨kl, kq⟩ := k.keeps hl
  exact ⟨kl, kq ∘ hq⟩

/-- As `of_same`, where the buffers being filled are the same too. -/
theorem of_eq {g : Set BufferId} (k : LawsKept g fill' st' jobs' inbound' st'' jobs'' inbound'') (hf : g = fill) (hs : st' = st)
    (hj : jobs' = jobs) (hi : inbound' = inbound) : LawsKept fill fill' st jobs inbound st'' jobs'' inbound'' := by
  subst hf hs hj hi
  exact k

theorem after (k : LawsKept fill' fill'' st' jobs' inbound' st'' jobs'' inbound'')
    (h : LawsKept fill fill' st jobs inbound st' jobs' inbound') : LawsKept fill fill'' st jobs inbound st'' jobs'' inbound'' :=
  h.trans k

/-- What the laws of the first state give may be used to show that they are kept. -/
theorem of_lawful (h : Lawful fill st jobs → LawsKept fill fill' st jobs inbound st' jobs' inbound') :
    LawsKept fill fill' st jobs inbound st' jobs' inbound' := ⟨fun hs => (h hs).keeps hs⟩

theorem of_same (k : LawsKept fill fill' st' jobs' inbound' st'' jobs'' inbound'') (hs : st' = st) (hj : jobs' = jobs)
    (hi : inbound' = inbound) : LawsKept fill fill' st jobs inbound st'' jobs'' inbound'' := by
  subst hs hj hi
  exact k

/-- Changes of the store beside records and queue. -/
theorem of_bytes (hb : st'.buffers = st.buffers) (hq : st'.freeQueue = st.freeQueue) :
    LawsKept fill fill st jobs inbound st' jobs inbound := by
  have h : ∀ b, st'.buffer b = st.buffer b := fun b => by unfold Store.buffer; simp only [hb]
  refine ⟨fun hl => ⟨⟨hl.queues, hl.records.of_records hq (fun b => by rw [h]) (fun b => by rw [h]; exact hl.records.sound b)
    (fun b => by rw [h]), hl.held.of_records fun b _ m tag => by rw [h]; exact id⟩, fun hi => hi.of_states fun b => by rw [h]⟩⟩

end LawsKept

end Sys2Proof.Machine
end

section
/-!
PROOFS. What the job engine's operations keep of the laws of jobs, buffers and inbound queues: a job's end (R128), the attempts of a
SEND (R120), the orders (R119 to R126), and reads through correction (R3, R20 to R22).
-/

namespace Sys2Proof.Machine

/-! ### The tags in use -/

theorem Jobs.tags_eq_of_none {jobs : Jobs} (h : jobs.running = none) (m : Master) :
    jobs.tags m = (jobs.outbound.get m).map Job.tag ++ (jobs.completions.get m).map Completion.tag := by
  simp only [Jobs.tags, h, List.append_nil]

theorem Jobs.tags_eq_of_some {jobs : Jobs} {r : Running} (h : jobs.running = some r) (m : Master) :
    jobs.tags m = (jobs.outbound.get m).map Job.tag ++ (if r.job.master = m then [r.job.tag] else []) ++
      (jobs.completions.get m).map Completion.tag := by
  simp only [Jobs.tags, h]

/-- Tags that are among those in use before, and jobs queued before, leave the job records lawful. -/
theorem Jobs.Lawful.of_subperm {jobs jobs' : Jobs} (h : jobs.Lawful) (hp : ∀ m, (jobs'.tags m).Subperm (jobs.tags m))
    (hq : ∀ m, ∀ j ∈ jobs'.outbound.get m, j ∈ jobs.outbound.get m) : jobs'.Lawful := by
  refine ⟨fun m => (hp m).length_le.trans (h.count m), fun m => ?_, fun m j hj => h.queued m j (hq m j hj)⟩
  obtain ⟨l, hl, hs⟩ := hp m
  exact hl.nodup_iff.mp (hs.nodup (h.nodup m))

/-- The tag of the RUNNING job is that of no QUEUED job of its master (R112). -/
theorem Jobs.Lawful.tag_ne_running {jobs : Jobs} (h : jobs.Lawful) {r : Running} (hr : jobs.running = some r) {j : Job}
    (hj : j ∈ jobs.outbound.get r.job.master) : j.tag ≠ r.job.tag := by
  intro e
  have hn := h.nodup r.job.master
  rw [Jobs.tags_eq_of_some hr, if_pos rfl] at hn
  obtain ⟨-, -, hd⟩ := List.nodup_append.mp (List.nodup_append.mp hn).1
  exact hd j.tag (List.mem_map_of_mem hj) r.job.tag (List.mem_singleton_self _) e

/-! ### The RUNNING job goes on -/

/-- Two records of the RUNNING job are of one job with the same orders and reply buffer. -/
def Running.SameJob (r r' : Running) : Prop :=
  r'.job.master = r.job.master ∧ r'.job.tag = r.job.tag ∧ r'.job.orders = r.job.orders ∧ r'.job.reply = r.job.reply

theorem Jobs.Lawful.of_running {jobs : Jobs} {r r' : Running} (h : jobs.Lawful) (hr : jobs.running = some r)
    (hm : r'.job.master = r.job.master) (ht : r'.job.tag = r.job.tag) : ({ jobs with running := some r' } : Jobs).Lawful := by
  refine h.of_subperm (fun m => ?_) fun m j hj => hj
  rw [Jobs.tags_eq_of_some (jobs := { jobs with running := some r' }) rfl, Jobs.tags_eq_of_some hr, hm, ht]

theorem Running.Holds.of_sameJob {r r' : Running} {st : Store} (h : r.Holds st) (hj : r.SameJob r')
    (hd : ∀ b k, r'.doing = .due b k → ∃ header, r'.job.orders[r'.job.index]? = some ⟨.send b, header⟩) : r'.Holds st := by
  obtain ⟨hm, ht, ho, hp⟩ := hj
  have hsend : r'.job.sendBuffers = r.job.sendBuffers := by unfold Job.sendBuffers; rw [ho]
  refine ⟨fun b hb => ?_, fun b hb => ?_, hd⟩
  · rw [hm, ht]
    exact h.sends b (by rwa [← hsend])
  · rw [hm, ht, hsend]
    exact h.reply b (by rwa [← hp])

/-- The RUNNING job's record changed, its orders, its reply and who it is as they were. -/
theorem setRunning_keepsLaws {fill : Set BufferId} {s : State} {r r' : Running} (hr : s.jobs.running = some r) (hj : r.SameJob r')
    (hd : ∀ b k, r'.doing = .due b k → ∃ header, r'.job.orders[r'.job.index]? = some ⟨.send b, header⟩) :
    KeepsLaws fill fill s (setRunning (some r') s) := by
  refine ⟨fun h => ⟨⟨h.queues.of_running hr hj.1 hj.2.1, h.records, ⟨h.held.queued, fun q hq => ?_⟩⟩, id⟩⟩
  obtain rfl := Option.some.inj (show some r' = some q from hq)
  exact (h.held.running r hr).of_sameJob hj hd

/-- Time neither begins nor ends what is due (R147). -/
theorem Doing.after_eq_due {d : Doing} {n : Nat} {b : BufferId} {h : Header} : d.after n = .due b h ↔ d = .due b h := by
  cases d <;> simp [Doing.after]

theorem lineTime_keepsLaws (fill : Set BufferId) (n : Nat) (s : State) : KeepsLaws fill fill s (lineTime n s) := by
  cases hr : s.jobs.running with
  | none =>
    have hj : (lineTime n s).jobs = s.jobs := by simp only [lineTime_jobs, hr, Option.map_none]; rw [← hr]
    exact (LawsKept.refl ..).of_same rfl hj rfl
  | some r =>
    have hj : (lineTime n s).jobs = { s.jobs with running := some { r with tenure := r.tenure - n, doing := r.doing.after n } } := by
      simp only [lineTime_jobs, hr, Option.map_some]
    have hk := setRunning_keepsLaws (fill := fill) (r' := { r with tenure := r.tenure - n, doing := r.doing.after n }) hr
      ⟨rfl, rfl, rfl, rfl⟩
    refine .of_lawful fun h => ?_
    have hd : ∀ b k, r.doing.after n = .due b k → ∃ header, r.job.orders[r.job.index]? = some ⟨.send b, header⟩ :=
      fun b k e => (h.held.running r hr).due b k (Doing.after_eq_due.mp e)
    rw [hj]
    exact hk hd

/-! ### The RUNNING job ends -/

theorem Store.Lawful.returnJob {fill : Set BufferId} {st : Store} (h : st.Lawful fill) (m : Master) (tag : Byte) :
    (st.returnJob m tag).Lawful fill := by
  refine h.of_records rfl (fun b => ?_) (fun b => ?_) fun b => ?_ <;> rw [Store.buffer_returnJob] <;> split
  · simp [*]
  · rfl
  · exact ⟨by simp, by simp, by simp⟩
  · exact h.sound b
  · simp [*]
  · rfl

theorem LawfulQueues.returnJob {st : Store} {inbound : PerMaster (List DeliveryEntry)} (h : LawfulQueues st inbound) (m : Master)
    (tag : Byte) : LawfulQueues (st.returnJob m tag) inbound := by
  refine h.of_records (fun b n => ?_) fun b => ?_ <;> rw [Store.buffer_returnJob] <;> split
  · simp [*, BufferState.pendingSet]
  · rfl
  · simp
  · exact h.used b

theorem Job.holdsBuffers_returnJob {st : Store} {j : Job} {m : Master} {tag : Byte} (h : j.holdsBuffers st)
    (hn : ¬(j.master = m ∧ j.tag = tag)) : j.holdsBuffers (st.returnJob m tag) := by
  intro b hb
  have hs := h b hb
  rw [Store.buffer_returnJob, if_neg, hs]
  rw [hs, BufferState.inJob.injEq]
  exact hn

/-- The end of the RUNNING job keeps the laws (R128, R129). -/
theorem endJob_keepsLaws (fill : Set BufferId) (outcome : JobOutcome) (failing : Option Nat) (s : State) :
    KeepsLaws fill fill s (endJob outcome failing s) := by
  cases hr : s.jobs.running with
  | none => rw [endJob_of_none hr]; exact .refl ..
  | some r =>
    rw [endJob_of_running hr]
    refine ⟨fun h => ⟨⟨h.queues.of_subperm (fun m => ?_) fun m j hj => hj, h.records.returnJob .., ⟨fun m j hj => ?_, fun q hq => ?_⟩⟩,
      fun hq => hq.returnJob ..⟩⟩
    · rw [Jobs.tags_eq_of_some hr, Jobs.tags_eq_of_none rfl]
      simp only [complete_jobs, setRunning_jobs]
      by_cases hm : m = r.job.master
      · subst hm
        rw [if_pos rfl, PerMaster.get_modify_self, List.map_append, List.append_assoc]
        exact (List.perm_append_comm.append_left _).subperm
      · rw [if_neg (Ne.symm hm), PerMaster.get_modify_of_ne _ hm, List.append_nil]
    · refine Job.holdsBuffers_returnJob (h.held.queued m j hj) fun ⟨hm, ht⟩ => ?_
      rw [(h.queues.queued m j hj).1] at hm
      subst hm
      exact h.queues.tag_ne_running hr hj ht
    · cases hq

theorem silenceAwait_keepsLaws (fill : Set BufferId) (s : State) : KeepsLaws fill fill s (silenceAwait s) := by
  unfold silenceAwait
  split
  · rename_i r hr
    split
    · exact setRunning_keepsLaws (r' := { r with job := { r.job with lastAwait := .silent }, doing := .send }) hr
        ⟨rfl, rfl, rfl, rfl⟩ (by simp)
    · exact .refl ..
  · exact .refl ..

theorem lineLost_keepsLaws (fill : Set BufferId) (s : State) : KeepsLaws fill fill s (lineLost s) := by
  unfold lineLost
  split
  · exact .refl ..
  · exact (silenceAwait_keepsLaws fill s).trans (endJob_keepsLaws ..)

theorem endInProgress_keepsLaws (fill : Set BufferId) (p : PendingEnd) (s : State) : KeepsLaws fill fill s (endInProgress p s) := by
  unfold endInProgress
  split
  · exact .refl ..
  · rename_i r hr
    split
    · exact endJob_keepsLaws ..
    · exact (silenceAwait_keepsLaws fill s).trans (endJob_keepsLaws ..)
    · exact endJob_keepsLaws ..
    · split
      · exact (endJob_keepsLaws ..).of_same rfl rfl rfl
      · exact setRunning_keepsLaws hr ⟨rfl, rfl, rfl, rfl⟩ (by simp [*])

/-! ### Reads through correction -/

/-- A read through correction leaves every buffer's state and the free queue as they were (R3, R20 to R22). -/
theorem readWord_state (w : WordNo) (s : State) (b : BufferId) :
    ((readWord w s).2.store.buffer b).state = (s.store.buffer b).state := by
  by_cases hf : (s.store.buffer (bufferOf w)).state = .free
  · unfold readWord
    split
    · rfl
    · rfl
    · rw [uncorrectableFinding_of_free hf]; rfl
  · exact readWord_buffer_state b hf

theorem readWord_freeQueue (w : WordNo) (s : State) : (readWord w s).2.store.freeQueue = s.store.freeQueue := by
  unfold readWord
  split
  · rfl
  · rfl
  · by_cases hf : (s.store.buffer (bufferOf w)).state = .free
    · rw [uncorrectableFinding_of_free hf]; rfl
    · rw [uncorrectableFinding_store hf]; rfl

/-- A read through correction changes no record but that of the word's buffer, and none of a FREE buffer (R21, R22). -/
theorem readWord_buffer_of_ne {w : WordNo} {s : State} {b : BufferId}
    (h : b ≠ bufferOf w ∨ (s.store.buffer b).state = .free) : (readWord w s).2.store.buffer b = s.store.buffer b := by
  unfold readWord
  split
  · rfl
  · rfl
  · by_cases hf : (s.store.buffer (bufferOf w)).state = .free
    · rw [uncorrectableFinding_of_free hf]; rfl
    · rw [uncorrectableFinding_buffer hf, if_neg]
      rintro rfl
      exact h.elim (fun h => h rfl) hf

/-- A buffer in use may get its damaged flag set: its record is sound all the same (R22). -/
theorem readWord_sound {w : WordNo} {s : State} (hw : (s.store.buffer (bufferOf w)).state ≠ .filling)
    (h : ∀ b, (s.store.buffer b).Sound) (b : BufferId) : ((readWord w s).2.store.buffer b).Sound := by
  by_cases hb : b ≠ bufferOf w ∨ (s.store.buffer b).state = .free
  · rw [readWord_buffer_of_ne hb]
    exact h b
  · obtain ⟨rfl, hf⟩ : b = bufferOf w ∧ (s.store.buffer b).state ≠ .free := by simpa using hb
    have hs := readWord_state w s (bufferOf w)
    refine ⟨fun e => absurd (hs ▸ e) hf, fun e => ?_, fun e => absurd (hs ▸ e) hw⟩
    have hd := (h (bufferOf w)).quarantined (hs ▸ e)
    unfold readWord
    split
    · exact hd
    · exact hd
    · rw [uncorrectableFinding_buffer hf, if_pos rfl]

/-- A read of a word outside the buffers being filled keeps the laws (R22). -/
theorem readWord_keepsLaws {fill : Set BufferId} {w : WordNo} {s : State} (hw : (s.store.buffer (bufferOf w)).state ≠ .filling) :
    KeepsLaws fill fill s (readWord w s).2 := by
  obtain ⟨-, -, -, -, -, hd, hj, -⟩ := readWord_sameBesideStore w s
  show LawsKept fill fill s.store s.jobs s.delivery.inbound _ (readWord w s).2.jobs (readWord w s).2.delivery.inbound
  rw [hj, hd]
  exact ⟨fun h => ⟨⟨h.queues, h.records.of_records (readWord_freeQueue w s) (fun b => by rw [readWord_state])
    (readWord_sound hw h.records.sound) (fun b => by rw [readWord_state]),
    h.held.of_records fun b _ m tag hs => (readWord_state w s b).trans hs⟩, fun hq => hq.of_states (readWord_state w s)⟩⟩

theorem readWords_keepsLaws {fill : Set BufferId} {ws : List WordNo} {s : State}
    (hw : ∀ w ∈ ws, (s.store.buffer (bufferOf w)).state ≠ .filling) : KeepsLaws fill fill s (readWords ws s).2 := by
  induction ws generalizing s with
  | nil => exact .refl ..
  | cons w rest ih =>
    refine (readWord_keepsLaws (hw w (List.mem_cons_self ..))).trans (ih fun v hv => ?_)
    rw [readWord_state]
    exact hw v (List.mem_cons_of_mem _ hv)

theorem bufferOf_of_mem_wordsOf {b : BufferId} {first last : Nat} {w : WordNo} (h : w ∈ wordsOf b first last) : bufferOf w = b := by
  obtain ⟨k, -, rfl⟩ := List.mem_map.mp h
  exact bufferOf_wordOf ..

/-! ### Attempts and orders -/

/-- An attempt that begins keeps the laws when its buffer is not being filled (R120). -/
theorem beginAttempt_keepsLaws {fill : Set BufferId} {r : Running} {b : BufferId} {h : Header} {s : State}
    (hb : (s.store.buffer b).state ≠ .filling) : KeepsLaws fill fill s (beginAttempt r b h s) := by
  have fetched : KeepsLaws fill fill s (readWords (wordsOf b 0 ((4 + h.length.toNat) / 8)) s).2 :=
    readWords_keepsLaws fun w hw => by rw [bufferOf_of_mem_wordsOf hw]; exact hb
  unfold beginAttempt
  simp only
  split
  · exact endJob_keepsLaws ..
  · split
    · exact endJob_keepsLaws ..
    · split
      · exact endJob_keepsLaws ..
      · refine fetched.trans ?_
        split
        · exact endJob_keepsLaws ..
        · exact .refl ..

/-- The buffer of a SEND order of the RUNNING job is IN-JOB of it, so it is not being filled (R6, R147). -/
theorem Running.Holds.send_ne_filling {r : Running} {st : Store} (h : r.Holds st) {b : BufferId} {k : Option Header}
    (ho : r.job.orders[r.job.index]? = some ⟨.send b, k⟩) : (st.buffer b).state ≠ .filling := by
  have hm : b ∈ r.job.sendBuffers := List.mem_filterMap.mpr ⟨_, List.mem_of_getElem? ho, rfl⟩
  rw [h.sends b hm]
  exact fun e => nomatch e

theorem takeAttempt_keepsLaws (fill : Set BufferId) (s : State) : KeepsLaws fill fill s (takeAttempt s) := by
  unfold takeAttempt
  split
  · exact .refl ..
  · rename_i r hr
    split
    · rename_i b k hd
      refine .of_lawful fun h => ?_
      obtain ⟨header, ho⟩ := (h.held.running r hr).due b k hd
      have hb := (h.held.running r hr).send_ne_filling ho
      refine LawsKept.after (beginAttempt_keepsLaws ?_) (setRunning_keepsLaws hr ⟨rfl, rfl, rfl, rfl⟩ ?_)
      · exact hb
      · simp
    · exact .refl ..

theorem settled_setRunning {r : Running} {s : State} (h : ∀ b k, r.doing ≠ .due b k) : Settled (setRunning (some r) s) :=
  settled_of_doing rfl h

/-- The order that is reached is judged and begun, from a state in which no attempt is due (R119). -/
theorem orderReached_keepsLaws (fill : Set BufferId) (fuel : Nat) {s : State} (hs : Settled s) :
    KeepsLaws fill fill s (orderReached fuel s) := by
  induction fuel generalizing s with
  | zero => exact .refl ..
  | succ n ih =>
    unfold orderReached
    split
    · exact .refl ..
    · rename_i r hr
      have notDue := hs r hr
      have begun : ∀ q : Running, r.SameJob q → q.doing = r.doing → KeepsLaws fill fill s (setRunning (some q) s) :=
        fun q hq hd => setRunning_keepsLaws hr hq fun b k e => absurd (hd ▸ e) (notDue b k)
      simp only
      split
      · exact endJob_keepsLaws ..
      · rename_i o ho
        split
        · exact endJob_keepsLaws ..
        · split
          · rename_i b hsend
            refine setRunning_keepsLaws hr ⟨rfl, rfl, rfl, rfl⟩ fun c k e => ?_
            obtain ⟨rfl, -⟩ : b = c ∧ _ := by simpa using e
            exact ⟨o.header, by rw [← hsend]; exact ho⟩
          · split
            · exact (endJob_keepsLaws ..).after (begun _ ⟨rfl, rfl, rfl, rfl⟩ rfl)
            · rename_i last _
              exact setRunning_keepsLaws (r' := { r with
                job := { r.job with steps := r.job.steps + 1 }, doing := .await last.key _ }) hr ⟨rfl, rfl, rfl, rfl⟩ (by simp)
          · refine LawsKept.after (ih (settled_setRunning ?_)) (begun _ ⟨rfl, rfl, rfl, rfl⟩ rfl)
            exact notDue
          · exact setRunning_keepsLaws hr ⟨rfl, rfl, rfl, rfl⟩ (by simp)
          · exact (endJob_keepsLaws ..).after (begun _ ⟨rfl, rfl, rfl, rfl⟩ rfl)

theorem orderDue_keepsLaws (fill : Set BufferId) (fuel : Nat) {s : State} (hs : Settled s) :
    KeepsLaws fill fill s (orderDue fuel s) := (takeAttempt_keepsLaws ..).after (orderReached_keepsLaws fill fuel hs)

theorem nextOrder_keepsLaws (fill : Set BufferId) {s : State} (hs : Settled s) : KeepsLaws fill fill s (nextOrder s) := by
  unfold nextOrder
  split
  · exact .refl ..
  · rename_i r hr
    refine LawsKept.after (orderDue_keepsLaws fill _ (settled_setRunning ?_)) ?_
    · exact hs r hr
    · exact setRunning_keepsLaws hr ⟨rfl, rfl, rfl, rfl⟩ fun b k e => absurd e (hs r hr b k)

end Sys2Proof.Machine
end

section
/-!
PROOFS. What a buffer's changes of state, the delivery unit and the line controller keep of the laws of jobs, buffers and inbound queues
(R6 to R9, R63, R82, R91 to R109).
-/

namespace Sys2Proof.Machine

/-! ### A buffer claimed, changed, given back -/

theorem Store.buffer_leaveUse_self (st : Store) (b : BufferId) :
    (st.leaveUse b).buffer b = if (st.buffer b).damaged then ⟨.quarantined, true⟩ else ⟨.free, false⟩ := by
  rw [Store.leaveUse_eq]
  split
  · rename_i hd
    rw [Store.buffer_setState_self, hd]
  · rename_i hd
    show (st.setState b .free).buffer b = _
    rw [Store.buffer_setState_self, Bool.eq_false_iff.mpr hd]

theorem Store.freeQueue_leaveUse (st : Store) (b : BufferId) :
    (st.leaveUse b).freeQueue = if (st.buffer b).damaged then st.freeQueue else st.freeQueue ++ [b] := by
  rw [Store.leaveUse_eq]
  split <;> rfl

theorem Store.sound_leaveUse (st : Store) (b : BufferId) : ((st.leaveUse b).buffer b).Sound := by
  rw [st.buffer_leaveUse_self]
  split <;> exact ⟨by simp, by simp, by simp⟩

/-- The buffers being filled without one that is not among them. -/
theorem Store.Lawful.diff_eq {fill : Set BufferId} {st : Store} (h : st.Lawful fill) {b : BufferId}
    (hb : (st.buffer b).state ≠ .filling) : fill \ {b} = fill :=
  Set.sdiff_singleton_eq_self fun hm => hb ((h.filling b).mpr hm)

theorem MasterSet.get_empty (m : Master) : PerMaster.get MasterSet.empty m = false := PerMaster.get_replicate ..

theorem MasterSet.eq_empty {ms : MasterSet} (h : ms.isEmpty = true) : ms = MasterSet.empty :=
  PerMaster.eq_of_get fun m => by rw [(MasterSet.isEmpty_iff ms).mp h, MasterSet.get_empty]

section

variable {fill : Set BufferId} {st : Store} {jobs : Jobs} {inbound : PerMaster (List DeliveryEntry)} {b : BufferId}

/-- A buffer that no job holds and no master is pending on leaves use (R9). -/
theorem leaveUse_lawsKept (hf : (st.buffer b).state ≠ .free) (hh : ¬jobs.Holding b)
    (hp : ∀ m, (st.buffer b).state.pendingSet.get m = false) :
    LawsKept fill (fill \ {b}) st jobs inbound (st.leaveUse b) jobs inbound := by
  have other : ∀ c, c ≠ b → (st.leaveUse b).buffer c = st.buffer c := fun c hc => st.leaveUse_buffer_of_ne hc
  refine ⟨fun h => ⟨⟨h.queues, h.records.replace hf other (st.sound_leaveUse b) ?_ fun c => ?_, h.held.replace other hh⟩,
    fun hq => hq.replace other (fun m => ?_) ?_⟩⟩ <;> rw [st.buffer_leaveUse_self]
  · rw [st.freeQueue_leaveUse]
    split <;> simp
  · by_cases hc : c = b
    · subst hc
      rw [if_pos rfl]
      split <;> simp
    · simp [hc]
  · rw [hp]
    split <;> exact MasterSet.get_empty m
  · split <;> simp

/-- A buffer in use that no job holds changes to another state in use, the same masters pending on it (R6). -/
theorem setState_lawsKept {v : BufferState} (hf : (st.buffer b).state ≠ .free) (hh : ¬jobs.Holding b)
    (hp : ∀ m, v.pendingSet.get m = (st.buffer b).state.pendingSet.get m)
    (hv : v ≠ .free ∧ v ≠ .quarantined ∧ v ≠ .filling ∧ v ≠ .delivered MasterSet.empty MasterSet.empty) :
    LawsKept fill (fill \ {b}) st jobs inbound (st.setState b v) jobs inbound := by
  obtain ⟨h1, h2, h3, h4⟩ := hv
  have other : ∀ c, c ≠ b → (st.setState b v).buffer c = st.buffer c := fun c hc => st.buffer_setState_of_ne hc v
  refine ⟨fun h => ⟨⟨h.queues, h.records.replace hf other ?_ ?_ fun c => ?_, h.held.replace other hh⟩,
    fun hq => hq.replace other (fun m => ?_) ?_⟩⟩ <;> rw [st.buffer_setState_self]
  · exact ⟨fun e => absurd e h1, fun e => absurd e h2, fun e => absurd e h3⟩
  · rw [if_neg h1]; rfl
  · by_cases hc : c = b
    · simp [hc, h3]
    · simp [hc]
  · exact hp m
  · exact h4

/-- The head of the free queue claimed, for a master or for a frame (R8, R12, R58). -/
theorem claim_lawsKept {fill' : Set BufferId} {rest : List BufferId} {v : BufferState} (hq : st.freeQueue = b :: rest)
    (hp : v.pendingSet = MasterSet.empty)
    (hv : v ≠ .free ∧ v ≠ .quarantined ∧ v ≠ .delivered MasterSet.empty MasterSet.empty)
    (hl : ∀ c, c ∈ fill' ↔ if c = b then v = .filling else c ∈ fill) :
    LawsKept fill fill' st jobs inbound { st.setState b v with freeQueue := rest } jobs inbound := by
  obtain ⟨h1, h2, h3⟩ := hv
  have other : ∀ c, c ≠ b → ({ st.setState b v with freeQueue := rest } : Store).buffer c = st.buffer c :=
    fun c hc => st.buffer_setState_of_ne hc v
  have self : ({ st.setState b v with freeQueue := rest } : Store).buffer b = ⟨v, (st.buffer b).damaged⟩ :=
    st.buffer_setState_self b v
  refine ⟨fun h => ?_⟩
  have hb : (st.buffer b).state = .free := (h.records.free b).mp (by rw [hq]; exact List.mem_cons_self ..)
  refine ⟨⟨h.queues, h.records.claim hq h1 h2 hl, h.held.replace other (h.held.not_holding fun m tag => ?_)⟩,
    fun hi => hi.replace other (fun m => ?_) ?_⟩
  · simp [hb]
  · rw [self, hb]
    simp only [hp]
    rfl
  · rw [self]; exact h3

end

/-! ### A frame's buffer -/

/-- The buffer of a frame, if it has one, as a set. -/
def asSet (b : Option BufferId) : Set BufferId := {c | b = some c}

theorem asSet_none : asSet none = ∅ := by ext c; simp [asSet]

theorem asSet_some (b : BufferId) : asSet (some b) = {b} := by ext c; simp [asSet, eq_comm]

theorem filledBy_none : filledBy none = ∅ := by ext c; simp [filledBy]

theorem filledBy_some (f : Frame) : filledBy (some f) = asSet f.buffer := rfl

theorem Lawful.state_eq_filling {fill : Set BufferId} {st : Store} {jobs : Jobs} (h : Lawful fill st jobs) {b : BufferId}
    (hb : b ∈ fill) : (st.buffer b).state = .filling := (h.records.filling b).mpr hb

theorem Lawful.not_holding_of_filling {fill : Set BufferId} {st : Store} {jobs : Jobs} (h : Lawful fill st jobs) {b : BufferId}
    (hb : b ∈ fill) : ¬jobs.Holding b :=
  h.held.not_holding fun m tag => by rw [h.state_eq_filling hb]; simp

/-- A FILLING buffer that is not kept leaves use (R6). -/
theorem leaveUse_filling {fill : Set BufferId} {st : Store} {jobs : Jobs} {inbound : PerMaster (List DeliveryEntry)} {b : BufferId}
    (hb : b ∈ fill) : LawsKept fill (fill \ {b}) st jobs inbound (st.leaveUse b) jobs inbound := by
  refine .of_lawful fun h => ?_
  have hs := h.state_eq_filling hb
  refine leaveUse_lawsKept (by rw [hs]; simp) (h.not_holding_of_filling hb) fun m => ?_
  rw [hs]
  exact MasterSet.get_empty m

theorem leaveUse_keepsLaws (b : Option BufferId) (s : State) : KeepsLaws (asSet b) ∅ s (leaveUse b s) := by
  cases b with
  | none => rw [asSet_none]; exact .refl ..
  | some b =>
    rw [asSet_some]
    have h := leaveUse_filling (fill := {b}) (st := s.store) (jobs := s.jobs) (inbound := s.delivery.inbound)
      (Set.mem_singleton b)
    rwa [Set.sdiff_self] at h

/-! ### Fan-out -/

theorem fanOut_store (targets : MasterSet) (e : DeliveryEntry) (s : State) :
    (fanOut targets e s).store = if (takers targets s).isEmpty then s.store.leaveUse e.buffer
      else s.store.setState e.buffer (.delivered (takers targets s) MasterSet.empty) := by
  unfold fanOut
  simp only
  split <;> rfl

theorem fanOut_jobs (targets : MasterSet) (e : DeliveryEntry) (s : State) : (fanOut targets e s).jobs = s.jobs := by
  unfold fanOut
  simp only
  split <;> rfl

theorem fanOut_inbound (targets : MasterSet) (e : DeliveryEntry) (s : State) (m : Master) :
    (fanOut targets e s).delivery.inbound.get m =
      if (takers targets s).get m then s.delivery.inbound.get m ++ [e] else s.delivery.inbound.get m := by
  unfold fanOut
  simp only
  split <;> exact PerMaster.get_tabulate ..

theorem takers_get {targets : MasterSet} {s : State} {m : Master} (h : (takers targets s).get m = true) :
    (s.delivery.inbound.get m).length < 16 := by
  rw [takers_eq, PerMaster.get_tabulate] at h
  simpa using (Bool.and_eq_true_iff.mp h).2

/-- After fan-out the masters that took the entry are the ones pending on the buffer (R101, R102). -/
theorem fanOut_buffer (targets : MasterSet) (e : DeliveryEntry) (s : State) (m : Master) :
    ((fanOut targets e s).store.buffer e.buffer).state.pendingSet.get m = (takers targets s).get m := by
  rw [fanOut_store]
  split
  · rename_i ht
    rw [s.store.buffer_leaveUse_self, (MasterSet.isEmpty_iff _).mp ht m]
    split <;> exact MasterSet.get_empty m
  · rw [s.store.buffer_setState_self]
    rfl

theorem fanOut_buffer_of_ne {targets : MasterSet} {e : DeliveryEntry} {s : State} {c : BufferId} (hc : c ≠ e.buffer) :
    (fanOut targets e s).store.buffer c = s.store.buffer c := by
  rw [fanOut_store]
  split
  · exact s.store.leaveUse_buffer_of_ne hc
  · exact s.store.buffer_setState_of_ne hc _

theorem fanOut_queues {targets : MasterSet} {e : DeliveryEntry} {s : State} (hb : (s.store.buffer e.buffer).state = .filling)
    (h : LawfulQueues s.store s.delivery.inbound) :
    LawfulQueues (fanOut targets e s).store (fanOut targets e s).delivery.inbound := by
  have fresh : ∀ m, e.buffer ∉ (s.delivery.inbound.get m).map DeliveryEntry.buffer := fun m hm => by
    rw [h.pending, hb] at hm
    exact absurd (MasterSet.get_empty m) (by rw [show PerMaster.get MasterSet.empty m = true from hm]; simp)
  refine ⟨fun m => ?_, fun m => ?_, fun m c => ?_, fun c => ?_⟩
  · rw [fanOut_inbound]
    split
    · rename_i ht
      rw [List.length_append, List.length_singleton]
      exact takers_get ht
    · exact h.room m
  · rw [fanOut_inbound]
    split
    · rw [List.map_append, List.map_singleton, ← List.concat_eq_append]
      exact (h.nodup m).concat (fresh m)
    · exact h.nodup m
  · rw [fanOut_inbound]
    by_cases hc : c = e.buffer
    · subst hc
      rw [fanOut_buffer]
      split
      · simp [*]
      · exact iff_of_false (fresh m) ‹_›
    · rw [fanOut_buffer_of_ne hc, ← h.pending]
      split
      · simp [hc]
      · rfl
  · by_cases hc : c = e.buffer
    · subst hc
      rw [fanOut_store]
      split
      · rw [s.store.buffer_leaveUse_self]
        split <;> simp
      · rename_i ht
        rw [s.store.buffer_setState_self]
        rintro e
        rw [BufferState.delivered.injEq] at e
        exact ht (by rw [e.1]; rfl)
    · rw [fanOut_buffer_of_ne hc]
      exact h.used c

/-- Fan-out of an entry for a buffer that has just been filled keeps the laws (R101, R102). -/
theorem fanOut_keepsLaws {fill : Set BufferId} {targets : MasterSet} {e : DeliveryEntry} {s : State} (hb : e.buffer ∈ fill) :
    KeepsLaws fill (fill \ {e.buffer}) s (fanOut targets e s) := by
  refine ⟨fun h => ⟨?_, fanOut_queues (h.state_eq_filling hb)⟩⟩
  have hs := h.state_eq_filling hb
  have hh := h.not_holding_of_filling hb
  rw [fanOut_jobs, fanOut_store]
  split
  · exact ((leaveUse_filling (inbound := s.delivery.inbound) hb).keeps h).1
  · rename_i ht
    have other : ∀ c, c ≠ e.buffer → (s.store.setState e.buffer (.delivered (takers targets s) MasterSet.empty)).buffer c =
        s.store.buffer c := fun c hc => s.store.buffer_setState_of_ne hc _
    refine ⟨h.queues, h.records.replace (by rw [hs]; simp) other ?_ ?_ fun c => ?_, h.held.replace other hh⟩
      <;> rw [Store.buffer_setState_self]
    · exact ⟨by simp, by simp, by simp⟩
    · rfl
    · by_cases hc : c = e.buffer <;> simp [hc]

theorem deliverTo_keepsLaws (targets : MasterSet) (h : Header) (b : Option BufferId) (late : Bool) (s : State) :
    KeepsLaws (asSet b) ∅ s (deliverTo targets h b late s) := by
  cases b with
  | none => rw [asSet_none]; exact .refl ..
  | some b =>
    rw [asSet_some]
    have hk := fanOut_keepsLaws (fill := {b}) (targets := targets) (e := entryOf h b late false s) (s := s)
      (Set.mem_singleton b)
    rwa [show (entryOf h b late false s).buffer = b from rfl, Set.sdiff_self] at hk

/-! ### The loop-back copy -/

theorem Store.setState_setState (st : Store) (b : BufferId) (v w : BufferState) : (st.setState b v).setState b w = st.setState b w := by
  unfold Store.setState Store.setBuffer Store.buffer
  simp

theorem Store.leaveUse_setState (st : Store) (b : BufferId) (v : BufferState) : (st.setState b v).leaveUse b = st.leaveUse b := by
  rw [Store.leaveUse_eq, Store.leaveUse_eq, st.buffer_setState_self, st.setState_setState, st.setState_setState]
  rfl

/-- Fan-out does not look at the state that its buffer had. -/
theorem fanOut_setState (targets : MasterSet) (e : DeliveryEntry) (v : BufferState) (s : State) :
    fanOut targets e { s with store := s.store.setState e.buffer v } = fanOut targets e s := by
  unfold fanOut
  simp only [show takers targets { s with store := s.store.setState e.buffer v } = takers targets s from rfl]
  split <;> simp only [missedAt, raiseIn, countIn, Store.leaveUse_setState, Store.setState_setState] <;> rfl

/-- A loop-back copy keeps the laws: it claims a buffer, fills it and hands it out in one event (R107 to R109). -/
theorem loopBackCopy_keepsLaws (fill : Set BufferId) (sender : Master) (copy : List Byte) (s : State) :
    KeepsLaws fill fill s (loopBackCopy sender copy s) := by
  unfold loopBackCopy
  simp only
  split
  · exact .refl ..
  · rename_i b rest hq
    refine .of_lawful fun h => ?_
    have hb : b ∉ fill := fun hm => by
      have h1 := h.state_eq_filling hm
      have h2 := (h.records.free b).mp (by rw [hq]; exact List.mem_cons_self ..)
      rw [h1] at h2
      cases h2
    rw [← fanOut_setState _ _ .filling]
    have handed := fanOut_keepsLaws (fill := insert b fill)
      (targets := (targetSet s (headerOf copy).destination).erase sender) (e := entryOf (headerOf copy) b false true s)
      (s := { s with store := ({ s.store with freeQueue := rest }.writeImage b 0 copy).setState b .filling })
      (Set.mem_insert b fill)
    rw [show (entryOf (headerOf copy) b false true s).buffer = b from rfl, Set.insert_sdiff_self_of_notMem hb] at handed
    refine LawsKept.after handed ?_
    · refine LawsKept.trans (claim_lawsKept (v := .filling) hq rfl ⟨by simp, by simp, by simp⟩ fun c => ?_) (.of_bytes ?_ ?_)
      · by_cases hc : c = b <;> simp [hc]
      · show (({ s.store with freeQueue := rest }.writeImage b 0 copy).setState b .filling).buffers = _
        rw [Store.writeImage_eq]
        rfl
      · show ({ s.store with freeQueue := rest }.writeImage b 0 copy).freeQueue = _
        rw [Store.writeImage_eq]

/-! ### Capture -/

/-- A buffer that is IN-JOB of the RUNNING job, and that neither its SEND orders nor its reply name, is held by no job (R112). -/
theorem Lawful.not_holding_of_running {fill : Set BufferId} {st : Store} {jobs : Jobs} (h : Lawful fill st jobs) {r : Running}
    (hr : jobs.running = some r) {b : BufferId} (hb : (st.buffer b).state = .inJob r.job.master r.job.tag)
    (hs : b ∉ r.job.sendBuffers) (hp : r.job.reply ≠ some b) : ¬jobs.Holding b := by
  rintro (⟨m, j, hj, hm⟩ | ⟨q, hq, hm⟩)
  · have he := h.held.queued m j hj b hm
    rw [hb, BufferState.inJob.injEq] at he
    obtain ⟨hmaster, htag⟩ := he
    have hjm := (h.queues.queued m j hj).1
    rw [← hjm, ← hmaster] at hj
    exact h.queues.tag_ne_running hr hj htag.symm
  · obtain rfl : r = q := Option.some.inj (hr.symm.trans hq)
    exact hm.elim hs hp

/-- The RUNNING job's reply buffer forgotten. -/
theorem dropReply_keepsLaws {fill : Set BufferId} {s : State} {r : Running} (hr : s.jobs.running = some r) (outcome : AwaitOutcome) :
    KeepsLaws fill fill s
      (setRunning (some { r with job := { r.job with reply := none, lastAwait := outcome }, doing := .send }) s) := by
  refine ⟨fun h => ⟨⟨h.queues.of_running hr rfl rfl, h.records, ⟨h.held.queued, fun q hq => ?_⟩⟩, id⟩⟩
  cases hq
  exact ⟨(h.held.running r hr).sends, fun b hb => (nomatch hb), fun b k hd => (nomatch hd)⟩

/-- A buffer IN-JOB of the RUNNING job that its SEND orders do not name becomes its reply (R93). -/
theorem setReply_keepsLaws {fill : Set BufferId} {s : State} {r : Running} (hr : s.jobs.running = some r) (hd : r.doing = .send)
    {b : BufferId} (hb : (s.store.buffer b).state = .inJob r.job.master r.job.tag) (hs : b ∉ r.job.sendBuffers) :
    KeepsLaws fill fill s (setRunning (some { r with job := { r.job with reply := some b } }) s) := by
  refine ⟨fun h => ⟨⟨h.queues.of_running hr rfl rfl, h.records, ⟨h.held.queued, fun q hq => ?_⟩⟩, id⟩⟩
  cases hq
  refine ⟨(h.held.running r hr).sends, fun c hc => ?_, fun c k e => absurd (hd.symm.trans e) (by simp)⟩
  cases hc
  exact ⟨hb, hs⟩

/-- The reply buffer of an earlier AWAIT leaves use once the RUNNING job's record no longer names it (R6, R122). -/
theorem giveBackReply_keepsLaws {fill : Set BufferId} {s : State} {r : Running} (hr : s.jobs.running = some r)
    (hn : r.job.reply = none) {old : Option BufferId} (ho : ∀ b, old = some b →
      (s.store.buffer b).state = .inJob r.job.master r.job.tag ∧ b ∉ r.job.sendBuffers) :
    KeepsLaws fill fill s (leaveUse old s) := by
  cases old with
  | none => exact .refl ..
  | some b =>
    obtain ⟨hs, hm⟩ := ho b rfl
    refine .of_lawful fun h => ?_
    have hk := leaveUse_lawsKept (fill := fill) (inbound := s.delivery.inbound) (by rw [hs]; simp)
      (h.not_holding_of_running hr hs hm (by rw [hn]; simp)) fun m => by rw [hs]; exact MasterSet.get_empty m
    rwa [h.records.diff_eq (by rw [hs]; simp)] at hk

end Sys2Proof.Machine
end

section
/-!
PROOFS. What the delivery decision, the line controller and the commands keep of the laws of jobs, buffers and inbound queues.
-/

namespace Sys2Proof.Machine

/-! ### The delivery decision -/

/-- The record of the RUNNING job once its AWAIT has captured an answer (R93, R122). -/
def Running.captured (r : Running) (outcome : AwaitOutcome) (b : Option BufferId) : Running :=
  { r with job := { r.job with reply := b, lastAwait := outcome }, doing := .send }

/-- What a capture does before the next order is due: the frame's buffer goes to the job, the earlier reply's leaves use (R93, R6). -/
theorem captured_keepsLaws {s : State} {r : Running} (hr : s.jobs.running = some r) (outcome : AwaitOutcome) (b : Option BufferId) :
    KeepsLaws (asSet b) ∅ s (setRunning (some (r.captured outcome b)) (leaveUse r.job.reply (match b with
      | some b => { s with store := s.store.setState b (.inJob r.job.master r.job.tag) }
      | none => s))) := by
  refine .of_lawful fun h => ?_
  have holds := h.held.running r hr
  have dropped := dropReply_keepsLaws (fill := asSet b) hr outcome
  cases b with
  | none =>
    rw [asSet_none] at dropped ⊢
    have gone := giveBackReply_keepsLaws (fill := ∅) (s := setRunning (some (r.captured outcome none)) s) rfl rfl holds.reply
    refine (dropped.trans gone).trans ?_
    cases r.job.reply <;> exact .refl ..
  | some b =>
    rw [asSet_some] at dropped h ⊢
    have hb := h.state_eq_filling (Set.mem_singleton b)
    have hsend : b ∉ r.job.sendBuffers := fun hm => by
      have he := holds.sends b hm
      rw [hb] at he
      cases he
    have hother : ∀ c, r.job.reply = some c → c ≠ b := by
      rintro c hc rfl
      have he := (holds.reply c hc).1
      rw [hb] at he
      cases he
    have hdrop := (dropped.keeps h).1
    have claimed := setState_lawsKept (fill := {b}) (inbound := s.delivery.inbound) (v := .inJob r.job.master r.job.tag)
      (by rw [hb]; simp) (hdrop.not_holding_of_filling (Set.mem_singleton b)) (fun m => by rw [show (_ : BufferState) = _ from hb]; rfl)
      ⟨by simp, by simp, by simp, by simp⟩
    rw [Set.sdiff_self] at claimed
    have gone := giveBackReply_keepsLaws (fill := ∅) (r := r.captured outcome none)
      (s := { setRunning (some (r.captured outcome none)) s with
        store := s.store.setState b (.inJob r.job.master r.job.tag) }) rfl rfl (old := r.job.reply) fun c hc => by
          show ((s.store.setState b _).buffer c).state = _ ∧ _
          rw [s.store.buffer_setState_of_ne (hother c hc)]
          exact holds.reply c hc
    have kept : ((leaveUse r.job.reply { setRunning (some (r.captured outcome none)) s with
        store := s.store.setState b (.inJob r.job.master r.job.tag) }).store.buffer b).state = .inJob r.job.master r.job.tag := by
      have hself := s.store.buffer_setState_self b (.inJob r.job.master r.job.tag)
      cases ho : r.job.reply with
      | none => exact congrArg BufferRecord.state hself
      | some c =>
        show (((s.store.setState b _).leaveUse c).buffer b).state = _
        rw [Store.leaveUse_buffer_of_ne _ (hother c ho).symm, hself]
    have replied := setReply_keepsLaws (fill := ∅) (r := r.captured outcome none)
      (s := leaveUse r.job.reply { setRunning (some (r.captured outcome none)) s with
        store := s.store.setState b (.inJob r.job.master r.job.tag) }) (by simp) rfl kept hsend
    refine ((dropped.trans claimed).trans (gone.trans replied)).trans ?_
    cases r.job.reply <;> exact .refl ..

theorem capture_keepsLaws {s : State} {r : Running} (hr : s.jobs.running = some r) (outcome : AwaitOutcome) (b : Option BufferId) :
    KeepsLaws (asSet b) ∅ s (capture r outcome b s) := by
  have h := captured_keepsLaws hr outcome b
  unfold capture
  refine LawsKept.after (nextOrder_keepsLaws ∅ (settled_setRunning (by simp))) ?_
  cases b with
  | none => exact h.trans (by cases r.job.reply <;> exact .refl ..)
  | some b => exact h

theorem deliverReply_keepsLaws (outcome : AwaitOutcome) (h : Header) (b : Option BufferId) (s : State) :
    KeepsLaws (asSet b) ∅ s (deliverReply outcome h b s) := by
  unfold deliverReply
  split
  · rename_i r hc
    refine capture_keepsLaws ?_ outcome b
    unfold captures at hc
    split at hc
    · split at hc
      · split at hc
        · rw [← hc]; assumption
        · cases hc
      · cases hc
    · cases hc
  · simp only
    split
    · exact deliverTo_keepsLaws ..
    · split
      · exact deliverTo_keepsLaws ..
      · split
        · exact (deliverTo_keepsLaws ..).of_same rfl rfl rfl
        · exact deliverTo_keepsLaws ..

theorem deliverRequest_keepsLaws (h : Header) (b : Option BufferId) (s : State) :
    KeepsLaws (asSet b) ∅ s (deliverRequest h b s) := by
  have gone : ∀ c, b = some c → KeepsLaws (asSet b) ∅ s { s with store := s.store.leaveUse c } := by
    rintro c rfl
    exact leaveUse_keepsLaws (some c) s
  unfold deliverRequest
  simp only
  split
  · exact leaveUse_keepsLaws ..
  · cases b with
    | none =>
      rw [asSet_none]
      simp only
      split <;> exact .refl ..
    | some b =>
      simp only
      split
      · exact deliverTo_keepsLaws ..
      · split
        · exact (gone b rfl).trans (.refl ..)
        · exact (gone b rfl).trans (.refl ..)

/-- The delivery decision keeps the laws: the frame's buffer is no longer being filled (R91). -/
theorem deliver_keepsLaws (h : Header) (b : Option BufferId) (s : State) : KeepsLaws (asSet b) ∅ s (deliver h b s) := by
  unfold deliver
  split
  · exact (leaveUse_keepsLaws b s).trans (.refl ..)
  · exact (leaveUse_keepsLaws b s).trans (.refl ..)
  · exact deliverReply_keepsLaws ..
  · exact deliverReply_keepsLaws ..
  · split
    · exact deliverRequest_keepsLaws ..
    · exact deliverTo_keepsLaws ..
  · exact deliverTo_keepsLaws ..
  · exact leaveUse_keepsLaws ..

/-! ### The line controller -/

theorem abandonReception_receiver (s : State) : (abandonReception s).receiver = none := by rw [abandonReception_eq]

theorem abandonReception_keepsLaws (s : State) : KeepsLaws (filledBy s.receiver) ∅ s (abandonReception s) := by
  unfold abandonReception
  split
  · rename_i hr
    rw [hr, filledBy_none]
    exact .refl ..
  · rename_i f hr
    rw [hr, filledBy_some]
    exact (leaveUse_keepsLaws f.buffer { s with receiver := none }).of_same rfl rfl rfl

theorem abandonReception_keepsAll (s : State) : KeepsAllLaws s (abandonReception s) := by
  have h := abandonReception_keepsLaws s
  rwa [← filledBy_none, ← abandonReception_receiver s] at h

/-- What does not reach the frame in progress keeps all laws once it keeps those of the other blocks. -/
theorem keepsAll_of_receiver {s t : State} (hr : t.receiver = s.receiver) (h : KeepsLaws (filledBy s.receiver) (filledBy s.receiver) s t) :
    KeepsAllLaws s t := by
  have e : KeepsLaws (filledBy s.receiver) (filledBy t.receiver) s t := by rw [hr]; exact h
  exact e

theorem lineLost_receiver (s : State) : (lineLost s).receiver = s.receiver := by
  unfold lineLost
  cases hr : s.jobs.running with
  | none => rfl
  | some r =>
    simp only
    rw [(endJob_sameBesideAttempt ..).2.2.2.1]
    unfold silenceAwait
    split
    · split <;> rfl
    · rfl

theorem leaveUp_keepsAll (s : State) : KeepsAllLaws s (leaveUp s) := by
  unfold leaveUp
  have lost : ∀ u, KeepsAllLaws u (lineLost u) := fun u => keepsAll_of_receiver (lineLost_receiver u) (lineLost_keepsLaws ..)
  exact (lost _).after ((abandonReception_keepsAll _).of_eq rfl rfl rfl rfl)

theorem leaveState_keepsAll (s : State) : KeepsAllLaws s (leaveState s) := by
  unfold leaveState
  split
  · exact .refl ..
  · exact abandonReception_keepsAll s
  · exact abandonReception_keepsAll s
  · exact leaveUp_keepsAll s

theorem goDown_keepsAll (s : State) : KeepsAllLaws s (goDown s) := (leaveState_keepsAll s).trans (.refl ..)

theorem goSeek_keepsAll (s : State) : KeepsAllLaws s (goSeek s) := (leaveState_keepsAll s).trans (.refl ..)

theorem lineEntry_keepsAll (s : State) : KeepsAllLaws s (lineEntry s) := by
  unfold lineEntry
  simp only
  split <;> exact .refl ..

theorem leaveWantSet_keepsAll (m : Master) (s : State) : KeepsAllLaws s (leaveWantSet m s) := by
  unfold leaveWantSet
  simp only
  split
  · exact (goDown_keepsAll _).of_eq rfl rfl rfl rfl
  · exact .refl ..

theorem detect_keepsAll (runs : List Rat) (s : State) : KeepsAllLaws s (detect runs s) := by
  unfold detect
  split
  · split
    · exact .refl ..
    · simp only
      split
      · unfold measure
        simp only
        split
        · exact (abandonReception_keepsAll s).trans (.refl ..)
        · split <;> exact .refl ..
      · exact .refl ..
  · exact .refl ..

theorem reportFrame_keepsAll (good : Bool) (s : State) : KeepsAllLaws s (reportFrame good s) := by
  unfold reportFrame
  split
  · exact .refl ..
  · exact .refl ..
  · split
    · split
      · exact .refl ..
      · exact (abandonReception_keepsAll s).trans (.refl ..)
    · exact goSeek_keepsAll s
  · split
    · exact .refl ..
    · split
      · exact .refl ..
      · split
        · exact .refl ..
        · exact (goSeek_keepsAll _).of_eq rfl rfl rfl rfl

end Sys2Proof.Machine
end

section
/-!
PROOFS. What the commands of a port keep of the laws of jobs, buffers and inbound queues.
-/

namespace Sys2Proof.Machine

/-! ### Operations that do not reach the frame in progress -/

theorem readWords_receiver (ws : List WordNo) (s : State) : (readWords ws s).2.receiver = s.receiver :=
  (readWords_sameBesideStore ws s).2.2.2.1

theorem silenceAwait_receiver (s : State) : (silenceAwait s).receiver = s.receiver := by
  unfold silenceAwait
  split
  · split <;> rfl
  · rfl

theorem endJob_receiver (outcome : JobOutcome) (failing : Option Nat) (s : State) :
    (endJob outcome failing s).receiver = s.receiver := (endJob_sameBesideAttempt ..).2.2.2.1

theorem endInProgress_receiver (p : PendingEnd) (s : State) : (endInProgress p s).receiver = s.receiver := by
  unfold endInProgress
  split
  · rfl
  · split
    · exact endJob_receiver ..
    · exact (endJob_receiver ..).trans (silenceAwait_receiver s)
    · exact endJob_receiver ..
    · split
      · exact endJob_receiver ..
      · rfl

theorem writeOneWord_receiver (b : BufferId) (k offset : Nat) (data : List Byte) (s : State) :
    (writeOneWord b k offset data s).receiver = s.receiver := by
  have hr : (readWord (wordOf b k) s).2.receiver = s.receiver := (readWord_sameBesideStore ..).2.2.2.1
  unfold writeOneWord
  simp only
  split
  · rfl
  · split <;> exact hr

/-! ### Buffers given back and taken -/

section

variable {fill : Set BufferId} {st : Store} {jobs : Jobs} {inbound : PerMaster (List DeliveryEntry)} {b : BufferId}

/-- A buffer that a master owns or holds, on which no master is pending, leaves use (R13). -/
theorem leaveUse_held (hf : (st.buffer b).state ≠ .free) (hl : (st.buffer b).state ≠ .filling)
    (hj : ∀ m tag, (st.buffer b).state ≠ .inJob m tag) (hp : (st.buffer b).state.pendingSet = MasterSet.empty) :
    LawsKept fill fill st jobs inbound (st.leaveUse b) jobs inbound := by
  refine .of_lawful fun h => ?_
  have hk := leaveUse_lawsKept (fill := fill) (inbound := inbound) hf (h.held.not_holding hj) fun m => by
    rw [hp]; exact MasterSet.get_empty m
  rwa [h.records.diff_eq hl] at hk

/-- A buffer that a master owns or holds goes to another state in use (R13, R14). -/
theorem setState_held {v : BufferState} (hf : (st.buffer b).state ≠ .free) (hl : (st.buffer b).state ≠ .filling)
    (hj : ∀ m tag, (st.buffer b).state ≠ .inJob m tag) (hp : v.pendingSet = (st.buffer b).state.pendingSet)
    (hv : v ≠ .free ∧ v ≠ .quarantined ∧ v ≠ .filling ∧ v ≠ .delivered MasterSet.empty MasterSet.empty) :
    LawsKept fill fill st jobs inbound (st.setState b v) jobs inbound := by
  refine .of_lawful fun h => ?_
  have hk := setState_lawsKept (fill := fill) (inbound := inbound) hf (h.held.not_holding hj) (fun m => by rw [hp]) hv
  rwa [h.records.diff_eq hl] at hk

end

theorem alloc_keepsLaws (fill : Set BufferId) (m : Master) (s : State) : KeepsLaws fill fill s (alloc m s).state := by
  unfold alloc
  split
  · exact .refl ..
  · split
    · exact .refl ..
    · split
      · exact .refl ..
      · rename_i b st hc
        obtain ⟨rest, hq, rfl⟩ := Store.claimHead_eq hc
        refine .of_lawful fun h => claim_lawsKept hq rfl ⟨by simp, by simp, by simp⟩ fun c => ?_
        by_cases hcb : c = b
        · subst hcb
          have hfree := (h.records.free c).mp (by rw [hq]; exact List.mem_cons_self ..)
          simp [← h.records.filling, hfree]
        · simp [hcb]

theorem free_keepsLaws (fill : Set BufferId) (m : Master) (n : Half) (s : State) : KeepsLaws fill fill s (free m n s).state := by
  unfold free
  split
  · exact .refl ..
  · split
    · rename_i o ho
      split
      · refine leaveUse_held ?_ ?_ ?_ ?_ <;> simp [ho, BufferState.pendingSet]
      · exact .refl ..
    · rename_i pending holders hs
      split
      · simp only
        split
        · rename_i he
          obtain ⟨hp, -⟩ := Bool.and_eq_true_iff.mp he
          refine leaveUse_held ?_ ?_ ?_ ?_ <;> simp [hs, BufferState.pendingSet, MasterSet.eq_empty hp]
        · rename_i he
          refine setState_held (by simp [hs]) (by simp [hs]) (by simp [hs]) (by simp [hs, BufferState.pendingSet])
            ⟨by simp, by simp, by simp, fun e => he ?_⟩
          rw [BufferState.delivered.injEq] at e
          rw [e.1, e.2]
          rfl
      · exact .refl ..
    · exact .refl ..

theorem adopt_keepsLaws (fill : Set BufferId) (m : Master) (n : Half) (s : State) : KeepsLaws fill fill s (adopt m n s).state := by
  unfold adopt
  split
  · exact .refl ..
  · split
    · rename_i hs
      split
      · exact .refl ..
      · refine setState_held ?_ ?_ ?_ ?_ ⟨?_, ?_, ?_, ?_⟩ <;> simp [hs, BufferState.pendingSet]
    · exact .refl ..

/-! ### WRITE, READ and SCRUB -/

theorem writeOneWord_state (b : BufferId) (k offset : Nat) (data : List Byte) (s : State) (c : BufferId) :
    ((writeOneWord b k offset data s).store.buffer c).state = (s.store.buffer c).state := by
  have hr := readWord_state (wordOf b k) s c
  unfold writeOneWord
  simp only
  split
  · rfl
  · split <;> exact hr

theorem writeOneWord_keepsLaws {fill : Set BufferId} {b : BufferId} {k offset : Nat} {data : List Byte} {s : State}
    (hb : (s.store.buffer b).state ≠ .filling) : KeepsLaws fill fill s (writeOneWord b k offset data s) := by
  have hr : KeepsLaws fill fill s (readWord (wordOf b k) s).2 := readWord_keepsLaws (by rwa [bufferOf_wordOf])
  unfold writeOneWord
  simp only
  split
  · exact .of_bytes rfl rfl
  · split
    · exact hr
    · exact hr.trans (.of_bytes rfl rfl)

theorem writeWords_keepsLaws {fill : Set BufferId} {b : BufferId} {offset : Nat} {data : List Byte} {ks : List Nat} {s : State}
    (hb : (s.store.buffer b).state ≠ .filling) :
    KeepsLaws fill fill s (writeWords b offset data ks s) ∧ (writeWords b offset data ks s).receiver = s.receiver := by
  induction ks generalizing s with
  | nil => exact ⟨.refl .., rfl⟩
  | cons k rest ih =>
    obtain ⟨hk, hr⟩ := ih (s := writeOneWord b k offset data s) (by rwa [writeOneWord_state])
    exact ⟨(writeOneWord_keepsLaws hb).trans hk, hr.trans (writeOneWord_receiver ..)⟩

theorem write_keepsAll (m : Master) (n offset count : Half) (data : List Byte) (s : State) :
    KeepsAllLaws s (write m n offset count data s).state := by
  unfold write
  split
  · exact .refl ..
  · split
    · exact .refl ..
    · split
      · exact .refl ..
      · rename_i ho
        split
        · exact .refl ..
        · obtain ⟨hk, hr⟩ := writeWords_keepsLaws (fill := filledBy s.receiver) (offset := offset.toNat) (data := data)
            (ks := spanWords offset.toNat count.toNat) (s := s) (by rw [not_not.mp ho]; simp)
          exact keepsAll_of_receiver hr hk

theorem read_keepsAll (m : Master) (n offset count : Half) (s : State) : KeepsAllLaws s (read m n offset count s).state := by
  unfold read
  split
  · exact .refl ..
  · rename_i b _
    split
    · exact .refl ..
    · split
      · exact .refl ..
      · rename_i hr
        have hb : (s.store.buffer b).state ≠ .filling := fun e => hr (by rw [e]; rfl)
        refine keepsAll_of_receiver (readWords_receiver ..) (readWords_keepsLaws fun w hw => ?_)
        obtain ⟨k, -, rfl⟩ := List.mem_map.mp hw
        rwa [bufferOf_wordOf]

theorem Store.freeQueue_scrub (st : Store) (b : BufferId) : (st.scrub b).freeQueue = st.freeQueue := by
  have h : (st.zeroBuffer b).freeQueue = st.freeQueue := by rw [st.zeroBuffer_eq]
  have hr : ∀ (u : Store) r ws, ({ u.setBuffer b r with damagedWords := ws } : Store).freeQueue = u.freeQueue := fun _ _ _ => rfl
  exact (hr ..).trans h

theorem Store.state_scrub (st : Store) (b c : BufferId) : ((st.scrub b).buffer c).state = (st.buffer c).state := by
  rw [st.buffer_scrub]
  split <;> rfl

theorem scrub_keepsLaws (fill : Set BufferId) (m : Master) (n : Half) (s : State) : KeepsLaws fill fill s (scrub m n s).state := by
  unfold scrub
  split
  · exact .refl ..
  · rename_i b _
    split
    · rename_i o ho
      split
      · refine ⟨fun h => ⟨⟨h.queues, h.records.of_records (s.store.freeQueue_scrub b) (fun c => by rw [Store.state_scrub]) (fun c => ?_)
          (fun c => by rw [Store.state_scrub]), h.held.of_records fun c _ m tag hs => (s.store.state_scrub b c).trans hs⟩,
          fun hq => hq.of_states (s.store.state_scrub b)⟩⟩
        rw [s.store.buffer_scrub]
        split
        · subst_vars
          exact ⟨fun _ => rfl, fun e => by simp [ho] at e, fun _ => rfl⟩
        · exact h.records.sound c
      · exact .refl ..
    · rename_i hs
      have self : ((s.store.scrub b).leaveUse b).buffer b = ⟨.free, false⟩ := by
        rw [Store.buffer_leaveUse_self, s.store.buffer_scrub, if_pos rfl]
        rfl
      have other : ∀ c, c ≠ b → ((s.store.scrub b).leaveUse b).buffer c = s.store.buffer c := fun c hc => by
        rw [Store.leaveUse_buffer_of_ne _ hc, s.store.buffer_scrub, if_neg hc]
      refine .of_lawful fun h => ?_
      have hd : fill \ {b} = fill := h.records.diff_eq (by rw [hs]; simp)
      refine ⟨fun _ => ⟨⟨h.queues, h.records.replace (by rw [hs]; simp) other ?_ ?_ fun c => ?_,
        h.held.replace other (h.held.not_holding fun m tag => by rw [hs]; simp)⟩, fun hq => hq.replace other (fun m => ?_) ?_⟩⟩
      · rw [self]; exact ⟨by simp, by simp, by simp⟩
      · rw [self, Store.freeQueue_leaveUse, s.store.buffer_scrub, if_pos rfl, s.store.freeQueue_scrub]
        rfl
      · rw [self, ← hd]
        by_cases hc : c = b <;> simp [hc]
      · rw [self, hs]; rfl
      · rw [self]; simp
    · exact .refl ..

/-! ### SUBMIT -/

theorem readHeaders_sameBesideStore (bs : List BufferId) (s : State) : SameBesideStore s (readHeaders bs s).2 := by
  induction bs generalizing s with
  | nil => exact .refl s
  | cons b rest ih => exact (readWord_sameBesideStore (wordOf b 0) s).trans (ih _)

theorem readHeaders_state (bs : List BufferId) (s : State) (c : BufferId) :
    ((readHeaders bs s).2.store.buffer c).state = (s.store.buffer c).state := by
  induction bs generalizing s with
  | nil => rfl
  | cons b rest ih => exact (ih _).trans (readWord_state ..)

theorem readHeaders_keepsLaws {fill : Set BufferId} {bs : List BufferId} {s : State}
    (hb : ∀ b ∈ bs, (s.store.buffer b).state ≠ .filling) : KeepsLaws fill fill s (readHeaders bs s).2 := by
  induction bs generalizing s with
  | nil => exact .refl ..
  | cons b rest ih =>
    refine (readWord_keepsLaws (by rw [bufferOf_wordOf]; exact hb b (List.mem_cons_self ..))).trans (ih fun c hc => ?_)
    rw [readWord_state]
    exact hb c (List.mem_cons_of_mem _ hc)

/-- Several buffers put in one state (R116). -/
theorem buffer_foldl_setState (bs : List BufferId) (v : BufferState) (st : Store) (c : BufferId) :
    (bs.foldl (fun st b => st.setState b v) st).buffer c = if c ∈ bs then ⟨v, (st.buffer c).damaged⟩ else st.buffer c := by
  induction bs generalizing st with
  | nil => rfl
  | cons b rest ih =>
    rw [List.foldl_cons, ih]
    by_cases hc : c = b
    · subst hc
      simp
    · simp [hc, st.buffer_setState_of_ne hc]

theorem freeQueue_foldl_setState (bs : List BufferId) (v : BufferState) (st : Store) :
    (bs.foldl (fun st b => st.setState b v) st).freeQueue = st.freeQueue := by
  induction bs generalizing st with
  | nil => rfl
  | cons b rest ih => exact ih (st.setState b v)

/-- The tag of a new job is not in use, since at most 8 of the 256 are (R112, R113). -/
theorem newTag_not_mem {m : Master} {s : State} (h : (tagsInUse m s).length ≤ 8) : newTag m s ∉ tagsInUse m s := by
  unfold newTag
  simp only
  generalize s.jobs.tagCounter.get m = start
  cases hf : ((List.range 256).map fun i => start + BitVec.ofNat 8 i).find? fun t => !(tagsInUse m s).contains t with
  | some t => simpa using List.find?_some hf
  | none =>
    rw [List.find?_eq_none] at hf
    have hn : ((List.range 256).map fun i => start + BitVec.ofNat 8 i).Nodup := by
      refine List.Nodup.map_on (fun i hi j hj e => ?_) List.nodup_range
      have e := congrArg BitVec.toNat (add_left_cancel e)
      simp only [BitVec.toNat_ofNat, List.mem_range] at e hi hj
      omega
    have hl := (List.subperm_of_subset (l₂ := tagsInUse m s) hn fun t ht => by simpa using hf t ht).length_le
    rw [List.length_map, List.length_range] at hl
    omega

/-- A new job with a fresh tag leaves the job records lawful (R112, R113, R116). -/
theorem Jobs.Lawful.submit {jobs jobs' : Jobs} (h : jobs.Lawful) {j : Job} (hr : j.reply = none)
    (ht : j.tag ∉ jobs.tags j.master) (hc : (jobs.tags j.master).length < 8)
    (ho : jobs'.outbound = jobs.outbound.modify j.master (· ++ [j])) (hrun : jobs'.running = jobs.running)
    (hcomp : jobs'.completions = jobs.completions) : jobs'.Lawful := by
  have hperm : (jobs'.tags j.master).Perm (j.tag :: jobs.tags j.master) := by
    unfold Jobs.tags
    rw [ho, hrun, hcomp, PerMaster.get_modify_self, List.map_append, List.map_singleton, List.append_assoc, List.append_assoc,
      List.append_assoc]
    exact List.perm_middle
  have hother : ∀ m, m ≠ j.master → jobs'.tags m = jobs.tags m := fun m hm => by
    unfold Jobs.tags
    rw [ho, hrun, hcomp, PerMaster.get_modify_of_ne _ hm]
  refine ⟨fun m => ?_, fun m => ?_, fun m q hq => ?_⟩
  · by_cases hm : m = j.master
    · rw [hm, hperm.length_eq, List.length_cons]
      exact hc
    · rw [hother m hm]
      exact h.count m
  · by_cases hm : m = j.master
    · rw [hm, hperm.nodup_iff]
      exact List.nodup_cons.mpr ⟨ht, h.nodup _⟩
    · rw [hother m hm]
      exact h.nodup m
  · rw [ho] at hq
    by_cases hm : m = j.master
    · subst hm
      rw [PerMaster.get_modify_self] at hq
      rcases List.mem_append.mp hq with hq | hq
      · exact h.queued _ q hq
      · rw [List.mem_singleton.mp hq]
        exact ⟨rfl, hr⟩
    · rw [PerMaster.get_modify_of_ne _ hm] at hq
      exact h.queued m q hq

/-- A SUBMIT that has passed every check keeps the laws: its buffers become IN-JOB of the new job (R116). -/
theorem takeJob_keepsLaws {fill : Set BufferId} {m : Master} {orders : List JobOrder} {bs : List BufferId} {s : State}
    (hb : ∀ b ∈ bs, (s.store.buffer b).state = .owned m) (hc : (tagsInUse m s).length < 8)
    (ho : ∀ o ∈ orders, ∀ b, o.order.buffer? = some b → b ∈ bs) : KeepsLaws fill fill s (takeJob m orders bs s).state := by
  have htag := newTag_not_mem (Nat.le_of_lt hc)
  unfold takeJob
  simp only
  generalize newTag m s = tag at htag
  have hbuf := buffer_foldl_setState bs (.inJob m tag) s.store
  refine ⟨fun h => ⟨⟨h.queues.submit (j := ⟨m, tag, orders, 0, 0, 0, none, .none, none, none⟩) rfl htag hc rfl rfl rfl,
    h.records.of_records (freeQueue_foldl_setState ..) (fun b => ?_) (fun b => ?_) (fun b => ?_), ?_⟩,
    fun hq => hq.of_records (fun b n => ?_) fun b => ?_⟩⟩
  · rw [hbuf]
    split
    · simp [hb b ‹_›]
    · rfl
  · rw [hbuf]
    split
    · exact ⟨by simp, by simp, by simp⟩
    · exact h.records.sound b
  · rw [hbuf]
    split
    · simp [hb b ‹_›]
    · rfl
  · have old : s.jobs.Hold (bs.foldl (fun st b => st.setState b (.inJob m tag)) s.store) := by
      refine h.held.of_records fun b _ n t hs => ?_
      rw [hbuf, if_neg]
      · exact hs
      · intro hm
        rw [hb b hm] at hs
        cases hs
    refine ⟨fun n j hj => ?_, old.running⟩
    simp only at hj
    by_cases hn : n = m
    · subst hn
      rw [PerMaster.get_modify_self] at hj
      rcases List.mem_append.mp hj with hj | hj
      · exact old.queued _ j hj
      · rw [List.mem_singleton.mp hj]
        intro b hmem
        obtain ⟨o, hmo, hbo⟩ := List.mem_filterMap.mp hmem
        rw [hbuf, if_pos (ho o hmo b hbo)]
    · rw [PerMaster.get_modify_of_ne _ hn] at hj
      exact old.queued n j hj
  · rw [hbuf]
    split
    · rw [hb b ‹_›]; rfl
    · rfl
  · rw [hbuf]
    split
    · simp
    · exact hq.used b

theorem submit_keepsAll (m : Master) (count : Byte) (orders : List OrderBytes) (s : State) :
    KeepsAllLaws s (submit m count orders s).state := by
  unfold submit
  simp only
  generalize hlist : (orders.map parseOrder).filterMap ParsedOrder.order? = list
  split
  · exact .refl ..
  · split
    · exact .refl ..
    · split
      · exact .refl ..
      · rename_i hown
        have hown : ∀ b ∈ sendBuffers list, (s.store.buffer b).state = .owned m := by simpa using hown
        have same := readHeaders_sameBesideStore (sendBuffers list) s
        have read : KeepsAllLaws s (readHeaders (sendBuffers list) s).2 :=
          keepsAll_of_receiver same.2.2.2.1 (readHeaders_keepsLaws fun b hb => by rw [hown b hb]; simp)
        split
        · exact .refl ..
        · rename_i hfull
          split
          · exact read
          · split
            · exact read
            · refine read.trans (keepsAll_of_receiver rfl (takeJob_keepsLaws (fun b hb => ?_) ?_ ?_))
              · rw [readHeaders_state]
                exact hown b hb
              · rw [tagsInUse_eq, same.2.2.2.2.2.2.1, ← jobCount_eq]
                exact Nat.not_le.mp hfull
              · intro o ho b hb
                obtain ⟨x, hx, rfl⟩ := List.mem_map.mp ho
                exact List.mem_filter.mpr ⟨List.mem_finRange b, List.any_eq_true.mpr ⟨x, hx, by simpa [cacheHeader] using hb⟩⟩

end Sys2Proof.Machine
end

section
/-!
PROOFS. What CANCEL, TAKE COMPLETION, TAKE DELIVERY and PORT RESET, and with them all commands, keep of the laws of jobs, buffers and
inbound queues.
-/

namespace Sys2Proof.Machine

/-! ### CANCEL and TAKE COMPLETION -/

/-- The tags of a queue without those of one tag, and that tag once, are among the queue's tags if a job of it has the tag. -/
theorem subperm_map_tag_filter {q : List Job} {tag : Byte} (h : ∃ j ∈ q, j.tag = tag) :
    ((q.filter fun j => j.tag ≠ tag).map Job.tag ++ [tag]).Subperm (q.map Job.tag) := by
  obtain ⟨j, hj, ht⟩ := h
  have hperm := ((List.filter_append_perm (fun j : Job => decide (j.tag ≠ tag)) q).map Job.tag)
  rw [List.map_append] at hperm
  refine List.Subperm.trans ?_ hperm.subperm
  refine (List.Sublist.append_left ?_ _).subperm
  rw [List.singleton_sublist, List.mem_map]
  exact ⟨j, List.mem_filter.mpr ⟨hj, by simp [ht]⟩, ht⟩

/-- What a list holds besides `x` is held with the same rest when `x` moves to the end. -/
theorem subperm_to_end {as bs : List Byte} {x : Byte} (h : (as ++ [x]).Subperm bs) (cs ds : List Byte) :
    (as ++ cs ++ (ds ++ [x])).Subperm (bs ++ cs ++ ds) := by
  have hp : (as ++ cs ++ (ds ++ [x])).Perm (as ++ [x] ++ (cs ++ ds)) := by
    simp only [List.append_assoc]
    refine List.Perm.append_left _ ?_
    rw [← List.append_assoc]
    exact List.perm_append_comm
  rw [List.append_assoc bs]
  exact hp.subperm.trans (List.Subperm.append h (List.Subperm.refl _))

/-- A QUEUED job cancelled keeps the laws (R132). -/
theorem cancelQueued_keepsLaws {fill : Set BufferId} {m : Master} {tag : Byte} {s : State}
    (ht : ∃ j ∈ s.jobs.outbound.get m, j.tag = tag) : KeepsLaws fill fill s (cancelQueued m tag s) := by
  unfold cancelQueued
  refine ⟨fun h => ⟨⟨h.queues.of_subperm (fun n => ?_) fun n j hj => ?_, h.records.returnJob m tag,
    ⟨fun n j hj => ?_, fun r hr => ?_⟩⟩, fun hq => hq.returnJob m tag⟩⟩
  · unfold Jobs.tags
    simp only [complete_jobs]
    by_cases hn : n = m
    · subst hn
      rw [PerMaster.get_modify_self, PerMaster.get_modify_self, List.map_append, List.map_singleton]
      exact subperm_to_end (subperm_map_tag_filter ht) _ _
    · rw [PerMaster.get_modify_of_ne _ hn, PerMaster.get_modify_of_ne _ hn]
  · simp only [complete_jobs] at hj
    by_cases hn : n = m
    · subst hn
      rw [PerMaster.get_modify_self] at hj
      exact List.mem_of_mem_filter hj
    · rwa [PerMaster.get_modify_of_ne _ hn] at hj
  · simp only [complete_jobs] at hj
    by_cases hn : n = m
    · subst hn
      rw [PerMaster.get_modify_self] at hj
      obtain ⟨hj, hne⟩ := List.mem_filter.mp hj
      exact Job.holdsBuffers_returnJob (h.held.queued n j hj) fun e => (by simpa using hne : j.tag ≠ tag) e.2
    · rw [PerMaster.get_modify_of_ne _ hn] at hj
      refine Job.holdsBuffers_returnJob (h.held.queued n j hj) fun e => hn ?_
      rw [← (h.queues.queued n j hj).1, e.1]
  · have holds := h.held.running r hr
    have hne : ¬(r.job.master = m ∧ r.job.tag = tag) := by
      rintro ⟨rfl, rfl⟩
      obtain ⟨j, hj, e⟩ := ht
      exact h.queues.tag_ne_running hr hj e
    refine ⟨Job.holdsBuffers_returnJob holds.sends hne, fun b hb => ⟨?_, (holds.reply b hb).2⟩, holds.due⟩
    have hs := (holds.reply b hb).1
    show ((s.store.returnJob m tag).buffer b).state = _
    rw [Store.buffer_returnJob, if_neg, hs]
    rw [hs, BufferState.inJob.injEq]
    exact hne

theorem cancel_keepsAll (m : Master) (tag : Byte) (s : State) : KeepsAllLaws s (cancel m tag s).state := by
  unfold cancel
  split
  · rename_i ht
    exact keepsAll_of_receiver rfl (cancelQueued_keepsLaws (by simpa using ht))
  · split
    · split
      · exact keepsAll_of_receiver (endInProgress_receiver ..) (endInProgress_keepsLaws ..)
      · exact .refl ..
    · exact .refl ..

theorem takeCompletion_keepsLaws (fill : Set BufferId) (m : Master) (s : State) :
    KeepsLaws fill fill s (takeCompletion m s).state := by
  unfold takeCompletion
  split
  · exact .refl ..
  · rename_i c rest hc
    refine ⟨fun h => ⟨⟨h.queues.of_subperm (fun n => ?_) fun n j hj => hj, h.records, ⟨h.held.queued, h.held.running⟩⟩, id⟩⟩
    unfold Jobs.tags
    refine (List.Sublist.append_left ?_ _).subperm
    refine List.Sublist.map _ ?_
    simp only
    by_cases hn : n = m
    · subst hn
      rw [PerMaster.get_set_self, hc]
      exact List.sublist_cons_self ..
    · rw [PerMaster.get_set_of_ne _ hn]

/-! ### TAKE DELIVERY -/

theorem Store.takeFrom_buffer_of_ne (st : Store) {b c : BufferId} (m : Master) (h : c ≠ b) :
    (st.takeFrom b m).buffer c = st.buffer c := by
  unfold Store.takeFrom
  split
  · exact st.buffer_setState_of_ne h _
  · rfl

theorem Store.takeFrom_of_delivered {st : Store} {b : BufferId} {pending holders : MasterSet} (m : Master)
    (h : (st.buffer b).state = .delivered pending holders) :
    st.takeFrom b m = st.setState b (.delivered (pending.erase m) (holders.insert m)) := by
  unfold Store.takeFrom
  rw [h]

theorem pendingSet_eq_true {v : BufferState} {m : Master} (h : v.pendingSet.get m = true) :
    ∃ pending holders, v = .delivered pending holders := by
  cases v
  case delivered pending holders => exact ⟨pending, holders, rfl⟩
  all_goals exact absurd (MasterSet.get_empty m) (by rw [show PerMaster.get MasterSet.empty m = true from h]; simp)

theorem insert_ne_empty (ms : MasterSet) (m : Master) : ms.insert m ≠ MasterSet.empty := fun e => by
  have h := MasterSet.isEmpty_insert ms m
  rw [e] at h
  cases h

theorem takeFrom_lawful {fill : Set BufferId} {st : Store} {jobs : Jobs} (h : Lawful fill st jobs) (b : BufferId) (m : Master) :
    Lawful fill (st.takeFrom b m) jobs := by
  unfold Store.takeFrom
  split
  · rename_i pending holders hs
    have other : ∀ c, c ≠ b → (st.setState b (.delivered (pending.erase m) (holders.insert m))).buffer c = st.buffer c :=
      fun c hc => st.buffer_setState_of_ne hc _
    refine ⟨h.queues, h.records.replace (by rw [hs]; simp) other ?_ ?_ fun c => ?_,
      h.held.replace other (h.held.not_holding fun n tag => by rw [hs]; simp)⟩ <;> rw [Store.buffer_setState_self]
    · exact ⟨by simp, by simp, by simp⟩
    · rfl
    · by_cases hc : c = b
      · subst hc
        simp [← h.records.filling, hs]
      · simp [hc]
  · exact h

/-- A delivery taken: the entry leaves the queue as its master leaves the pending set (R105). -/
theorem takeFrom_queues {st : Store} {inbound : PerMaster (List DeliveryEntry)} {m : Master} {e : DeliveryEntry}
    {rest : List DeliveryEntry} (h : LawfulQueues st inbound) (hq : inbound.get m = e :: rest) :
    LawfulQueues (st.takeFrom e.buffer m) (inbound.set m rest) := by
  have hmem : (st.buffer e.buffer).state.pendingSet.get m = true := by rw [← h.pending, hq]; simp
  obtain ⟨pending, holders, hs⟩ := pendingSet_eq_true hmem
  have self : ((st.takeFrom e.buffer m).buffer e.buffer).state = .delivered (pending.erase m) (holders.insert m) := by
    rw [Store.takeFrom_of_delivered m hs, Store.buffer_setState_self]
  have hn := h.nodup m
  rw [hq, List.map_cons, List.nodup_cons] at hn
  refine ⟨fun n => ?_, fun n => ?_, fun n c => ?_, fun c => ?_⟩
  · by_cases hnm : n = m
    · subst hnm
      have hr := h.room n
      rw [hq, List.length_cons] at hr
      rw [PerMaster.get_set_self]
      omega
    · rw [PerMaster.get_set_of_ne _ hnm]
      exact h.room n
  · by_cases hnm : n = m
    · subst hnm
      rw [PerMaster.get_set_self]
      exact hn.2
    · rw [PerMaster.get_set_of_ne _ hnm]
      exact h.nodup n
  · have hp := h.pending n c
    by_cases hc : c = e.buffer
    · subst hc
      rw [self]
      rw [hs] at hp
      simp only [BufferState.pendingSet, MasterSet.get_erase] at hp ⊢
      by_cases hnm : n = m
      · subst hnm
        rw [PerMaster.get_set_self]
        simp [hn.1]
      · rw [PerMaster.get_set_of_ne _ hnm, hp]
        simp [hnm]
    · rw [Store.takeFrom_buffer_of_ne _ _ hc, ← hp]
      by_cases hnm : n = m
      · subst hnm
        rw [PerMaster.get_set_self, hq]
        simp [hc]
      · rw [PerMaster.get_set_of_ne _ hnm]
  · by_cases hc : c = e.buffer
    · subst hc
      rw [self]
      intro he
      rw [BufferState.delivered.injEq] at he
      exact insert_ne_empty _ _ he.2
    · rw [Store.takeFrom_buffer_of_ne _ _ hc]
      exact h.used c

theorem takeDelivery_keepsLaws (fill : Set BufferId) (m : Master) (s : State) : KeepsLaws fill fill s (takeDelivery m s).state := by
  unfold takeDelivery
  split
  · exact .refl ..
  · exact ⟨fun h => ⟨takeFrom_lawful h _ m, fun hq => takeFrom_queues hq ‹_›⟩⟩

/-! ### PORT RESET -/

theorem BufferRecord.afterReset_of_goes {r : BufferRecord} {m : Master} {lineGoes : Bool}
    (h : r.state.goesAtReset m lineGoes = true) :
    r.afterReset m lineGoes = if r.damaged then ⟨.quarantined, true⟩ else ⟨.free, false⟩ := by
  unfold BufferRecord.afterReset
  rw [if_pos h]

/-- A buffer that stays in use keeps its state, except that the master leaves the sets of a DELIVERED one (R28). -/
theorem BufferRecord.afterReset_of_stays {r : BufferRecord} {m : Master} {lineGoes : Bool}
    (h : r.state.goesAtReset m lineGoes = false) :
    (r.afterReset m lineGoes).state = r.state.without m ∧ (r.afterReset m lineGoes).damaged = r.damaged := by
  unfold BufferRecord.afterReset
  rw [if_neg (by rw [h]; simp)]
  obtain ⟨v, d⟩ := r
  cases v <;> exact ⟨rfl, rfl⟩

theorem BufferRecord.sound_afterReset {r : BufferRecord} (h : r.Sound) (m : Master) (lineGoes : Bool) :
    (r.afterReset m lineGoes).Sound := by
  by_cases hg : r.state.goesAtReset m lineGoes = true
  · rw [afterReset_of_goes hg]
    split <;> exact ⟨by simp, by simp, by simp⟩
  · obtain ⟨hs, hd⟩ := afterReset_of_stays (Bool.eq_false_iff.mpr hg)
    refine ⟨fun e => ?_, fun e => ?_, fun e => ?_⟩ <;> rw [hd] <;> rw [hs] at e <;>
      cases hv : r.state <;> simp only [hv, BufferState.without, reduceCtorEq] at e
    · exact h.free hv
    · exact h.quarantined hv
    · exact h.filling hv

theorem BufferState.goesAtReset_of_free {m : Master} {lineGoes : Bool} : BufferState.free.goesAtReset m lineGoes = false := rfl

/-- The buffers that are FREE after a port reset: those FREE before, and the undamaged ones that leave use (R9, R28). -/
theorem BufferRecord.afterReset_free {r : BufferRecord} {m : Master} {lineGoes : Bool} :
    (r.afterReset m lineGoes).state = .free ↔ r.state = .free ∨ (r.state.goesAtReset m lineGoes = true ∧ r.damaged = false) := by
  by_cases hg : r.state.goesAtReset m lineGoes = true
  · have hf : r.state ≠ .free := fun e => by rw [e] at hg; cases hg
    rw [afterReset_of_goes hg]
    cases hd : r.damaged <;> simp [hg, hf]
  · have hg := Bool.eq_false_iff.mpr hg
    rw [(afterReset_of_stays hg).1, hg]
    cases r.state <;> simp [BufferState.without]

theorem BufferRecord.afterReset_filling {r : BufferRecord} {m : Master} {lineGoes : Bool} :
    (r.afterReset m lineGoes).state = .filling ↔ r.state = .filling ∧ lineGoes = false := by
  by_cases hg : r.state.goesAtReset m lineGoes = true
  · rw [afterReset_of_goes hg]
    constructor
    · intro e
      split at e <;> cases e
    · rintro ⟨hs, rfl⟩
      rw [hs] at hg
      cases hg
  · have hg := Bool.eq_false_iff.mpr hg
    rw [(afterReset_of_stays hg).1]
    cases hs : r.state
    case filling =>
      rw [hs] at hg
      have hl : lineGoes = false := hg
      simp [BufferState.without, hl]
    all_goals simp [BufferState.without]

/-- A buffer IN-JOB of another master's job stays so (R28). -/
theorem BufferRecord.afterReset_inJob {r : BufferRecord} {m n : Master} {tag : Byte} {lineGoes : Bool} (hn : n ≠ m)
    (h : r.state = .inJob n tag) : (r.afterReset m lineGoes).state = .inJob n tag := by
  have hg : r.state.goesAtReset m lineGoes = false := by
    rw [h]
    simp [BufferState.goesAtReset, hn]
  rw [(afterReset_of_stays hg).1, h]
  rfl

/-- After a port reset the master is pending on no buffer, and every other master on those it was (R28). -/
theorem BufferRecord.afterReset_pending (r : BufferRecord) (m n : Master) (lineGoes : Bool) :
    (r.afterReset m lineGoes).state.pendingSet.get n = (r.state.pendingSet.get n && n ≠ m) := by
  by_cases hg : r.state.goesAtReset m lineGoes = true
  · have h0 : (r.state.pendingSet.get n && n ≠ m) = false := by
      cases hs : r.state
      case delivered pending holders =>
        rw [hs] at hg
        have he := (MasterSet.isEmpty_iff _).mp (Bool.and_eq_true_iff.mp hg).1 n
        rwa [MasterSet.get_erase] at he
      all_goals simp [BufferState.pendingSet, MasterSet.get_empty]
    rw [afterReset_of_goes hg, h0]
    split <;> exact MasterSet.get_empty n
  · rw [(afterReset_of_stays (Bool.eq_false_iff.mpr hg)).1]
    cases r.state
    case delivered pending holders => exact MasterSet.get_erase ..
    all_goals simp [BufferState.without, BufferState.pendingSet, MasterSet.get_empty]

theorem BufferRecord.afterReset_used (r : BufferRecord) (m : Master) (lineGoes : Bool) :
    (r.afterReset m lineGoes).state ≠ .delivered MasterSet.empty MasterSet.empty := by
  by_cases hg : r.state.goesAtReset m lineGoes = true
  · rw [afterReset_of_goes hg]
    split <;> simp
  · rw [(afterReset_of_stays (Bool.eq_false_iff.mpr hg)).1]
    cases hs : r.state
    case delivered pending holders =>
      rw [hs] at hg
      intro e
      simp only [BufferState.without, BufferState.delivered.injEq] at e
      apply hg
      simp only [BufferState.goesAtReset, e.1, e.2]
      rfl
    all_goals simp [BufferState.without]

/-- The frame store's part of a port reset keeps the laws of the records (R9, R28). -/
theorem Store.Lawful.resetPort {fill fill' : Set BufferId} {st : Store} (h : st.Lawful fill) (m : Master) (lineGoes : Bool)
    (hf : ∀ b, b ∈ fill' ↔ b ∈ fill ∧ lineGoes = false) : (st.resetPort m lineGoes).Lawful fill' := by
  obtain ⟨hb, hs⟩ := st.resetPort_spec m lineGoes
  have hq : (st.resetPort m lineGoes).freeQueue = queueAfterReset m lineGoes st := by rw [hs]
  have hmem : ∀ b, b ∈ queueAfterReset m lineGoes st ↔ (st.buffer b).state = .free ∨
      ((st.buffer b).state.goesAtReset m lineGoes = true ∧ (st.buffer b).damaged = false) := by
    intro b
    simp [queueAfterReset, h.free]
  refine ⟨?_, fun b => ?_, fun b => ?_, fun b => ?_⟩
  · rw [hq]
    refine List.nodup_append.mpr ⟨h.nodup, (List.nodup_finRange 96).filter _, fun a ha c hc => ?_⟩
    rintro rfl
    have hfree := (h.free a).mp ha
    have hgo := (List.mem_filter.mp hc).2
    rw [hfree] at hgo
    cases hgo
  · rw [hq, hmem, hb, BufferRecord.afterReset_free]
  · rw [hb]
    exact BufferRecord.sound_afterReset (h.sound b) ..
  · rw [hb, BufferRecord.afterReset_filling, hf, h.filling]

/-- The inbound queues after a port reset (R28, R111). -/
theorem LawfulQueues.resetPort {st : Store} {inbound : PerMaster (List DeliveryEntry)} (h : LawfulQueues st inbound) (m : Master)
    (lineGoes : Bool) : LawfulQueues (st.resetPort m lineGoes) (inbound.set m []) := by
  obtain ⟨hb, -⟩ := st.resetPort_spec m lineGoes
  refine ⟨fun n => ?_, fun n => ?_, fun n b => ?_, fun b => by rw [hb]; exact BufferRecord.afterReset_used (st.buffer b) m lineGoes⟩
  · by_cases hn : n = m
    · subst hn; simp
    · rw [PerMaster.get_set_of_ne _ hn]; exact h.room n
  · by_cases hn : n = m
    · subst hn; simp
    · rw [PerMaster.get_set_of_ne _ hn]; exact h.nodup n
  · rw [hb, BufferRecord.afterReset_pending]
    by_cases hn : n = m
    · subst hn; simp
    · rw [PerMaster.get_set_of_ne _ hn, h.pending]
      simp [hn]

theorem runsFor_some (m : Master) (r : Running) : runsFor m (some r) = decide (r.job.master = m) := rfl

/-- The job engine after a port reset: what another master's jobs hold stays (R28, R137, R138). -/
theorem Lawful.resetPort {fill fill' : Set BufferId} {st : Store} {jobs : Jobs} (h : Lawful fill st jobs) (m : Master) (lineGoes : Bool)
    (hf : ∀ b, b ∈ fill' ↔ b ∈ fill ∧ lineGoes = false) : Lawful fill' (st.resetPort m lineGoes) { jobs with
      outbound := jobs.outbound.set m [], completions := jobs.completions.set m [], tagCounter := jobs.tagCounter.set m 0,
      running := if runsFor m jobs.running then none else jobs.running } := by
  have hrun : ∀ r, (if runsFor m jobs.running then none else jobs.running) = some r → jobs.running = some r ∧ r.job.master ≠ m := by
    intro r hr
    split at hr
    · cases hr
    · rename_i hn
      refine ⟨hr, fun e => hn ?_⟩
      rw [hr, runsFor_some]
      simpa using e
  have hq : ∀ n, ∀ j ∈ (jobs.outbound.set m []).get n, n ≠ m ∧ j ∈ jobs.outbound.get n := by
    intro n j hj
    by_cases hn : n = m
    · subst hn; simp at hj
    · exact ⟨hn, by rwa [PerMaster.get_set_of_ne _ hn] at hj⟩
  have hb := (st.resetPort_spec m lineGoes).1
  refine ⟨h.queues.of_subperm (fun n => ?_) fun n j hj => (hq n j hj).2, h.records.resetPort m lineGoes hf,
    ⟨fun n j hj b hm => ?_, fun r hr => ?_⟩⟩
  · refine List.Sublist.subperm ?_
    unfold Jobs.tags
    simp only
    by_cases hn : n = m
    · subst hn
      rw [PerMaster.get_set_self, PerMaster.get_set_self]
      cases hr : (if runsFor n jobs.running then none else jobs.running) with
      | none => simp
      | some r => simp [(hrun r hr).2]
    · rw [PerMaster.get_set_of_ne _ hn, PerMaster.get_set_of_ne _ hn]
      refine List.Sublist.append_right (List.Sublist.append_left ?_ _) _
      cases hr : (if runsFor m jobs.running then none else jobs.running) with
      | none => simp
      | some r => rw [(hrun r hr).1]
  · obtain ⟨hn, hj⟩ := hq n j hj
    rw [hb]
    refine BufferRecord.afterReset_inJob ?_ (h.held.queued n j hj b hm)
    rwa [(h.queues.queued n j hj).1]
  · obtain ⟨hr, hn⟩ := hrun r hr
    have holds := h.held.running r hr
    refine ⟨fun b hm => ?_, fun b hm => ⟨?_, (holds.reply b hm).2⟩, holds.due⟩ <;> rw [hb]
    · exact BufferRecord.afterReset_inJob hn (holds.sends b hm)
    · exact BufferRecord.afterReset_inJob hn (holds.reply b hm).1

theorem portReset_keepsAll (m : Master) (s : State) : KeepsAllLaws s (portReset m s).state := by
  have reset : KeepsAllLaws s (resetStore m (setTable (withoutMaster s.table m) (resetDelivery m (resetJobs m s)))) := by
    rw [resetJobs_eq]
    refine ⟨fun h => ⟨h.resetPort m (takesLineDown m s) fun b => ?_, fun hq => hq.resetPort m (takesLineDown m s)⟩⟩
    show b ∈ filledBy (if takesLineDown m s then none else s.receiver) ↔ _
    cases takesLineDown m s <;> simp [filledBy]
  have ht : (resetJobs m s).table = s.table := by rw [resetJobs_eq]
  have hp : (portReset m s).state = resetReports m (resetLine m (resetStore m
      (setTable (withoutMaster s.table m) (resetDelivery m (resetJobs m s))))) := by
    unfold portReset
    simp only
    rw [show (resetDelivery m (resetJobs m s)).table = s.table from ht]
  rw [hp]
  exact (leaveWantSet_keepsAll m _).after reset

/-! ### Every command -/

theorem lineSet_keepsAll (m : Master) (record : SettingsBytes) (s : State) : KeepsAllLaws s (lineSet m record s).state := by
  unfold lineSet
  split
  · exact .refl ..
  · split
    · unfold applySettings
      simp only
      split
      · exact .refl ..
      · exact (lineEntry_keepsAll _).after ((goDown_keepsAll _).of_eq rfl rfl rfl rfl)
    · exact .refl ..

theorem wantLine_keepsAll (m : Master) (s : State) : KeepsAllLaws s (wantLine m s).state := by
  unfold wantLine
  simp only
  split
  · exact (lineEntry_keepsAll _).of_eq rfl rfl rfl rfl
  · exact .refl ..

/-- The effect of every command keeps all laws of jobs, buffers and inbound queues. -/
theorem effect_keepsAll {i : Instr} {e : State → Reply} (h : effectOf i = some e) (s : State) : KeepsAllLaws s (e s).state := by
  cases i <;> simp only [effectOf, Option.some.injEq, reduceCtorEq] at h <;> subst h
  case alloc m =>
    refine keepsAll_of_receiver ?_ (alloc_keepsLaws _ m s)
    unfold alloc
    (repeat' split) <;> rfl
  case free m n =>
    refine keepsAll_of_receiver ?_ (free_keepsLaws _ m n s)
    unfold free
    simp only
    (repeat' split) <;> rfl
  case adopt m n =>
    refine keepsAll_of_receiver ?_ (adopt_keepsLaws _ m n s)
    unfold adopt
    (repeat' split) <;> rfl
  case write m n o c d => exact write_keepsAll m n o c d s
  case read m n o c => exact read_keepsAll m n o c s
  case scrub m n =>
    refine keepsAll_of_receiver ?_ (scrub_keepsLaws _ m n s)
    unfold scrub
    (repeat' split) <;> rfl
  case submit m c o => exact submit_keepsAll m c o s
  case cancel m t => exact cancel_keepsAll m t s
  case takeCompletion m =>
    refine keepsAll_of_receiver ?_ (takeCompletion_keepsLaws _ m s)
    unfold takeCompletion
    split <;> rfl
  case takeDelivery m =>
    refine keepsAll_of_receiver ?_ (takeDelivery_keepsLaws _ m s)
    unfold takeDelivery
    split <;> rfl
  case portReset m => exact portReset_keepsAll m s
  case lineSet m r => exact lineSet_keepsAll m r s
  case wantLine m => exact wantLine_keepsAll m s
  case unwantLine m => exact leaveWantSet_keepsAll m s
  case relearn m =>
    unfold relearn
    split
    · exact goSeek_keepsAll s
    · exact .refl ..
  case claim =>
    unfold claim
    (repeat' split) <;> exact .refl ..
  case drop =>
    unfold drop
    (repeat' split) <;> exact .refl ..
  case join =>
    unfold join
    (repeat' split) <;> exact .refl ..
  case leave =>
    unfold leave
    simp only
    (repeat' split) <;> exact .refl ..
  case portSet =>
    unfold portSet
    split <;> exact .refl ..
  case tableRead =>
    unfold tableRead
    (repeat' split) <;> exact .refl ..
  case notice =>
    unfold notice
    split <;> exact .refl ..
  case release =>
    unfold release
    (repeat' split) <;> exact .refl ..
  case mask =>
    unfold mask
    split <;> exact .refl ..
  all_goals exact .refl ..

end Sys2Proof.Machine
end

section
/-!
PROOFS. What the receiver and the delivery decision keep of the laws of jobs, buffers and inbound queues: the buffer being filled is
that of the frame in progress from its address character to its frame end (R58 to R63, R91).
-/

namespace Sys2Proof.Machine

/-! ### Operations that do not reach the frame in progress -/

/-- What changes neither the frame in progress nor the store, the jobs and the inbound queues keeps all laws. -/
theorem keepsAll_of_same {s t : State} (hr : t.receiver = s.receiver) (hs : t.store = s.store) (hj : t.jobs = s.jobs)
    (hd : t.delivery = s.delivery) : KeepsAllLaws s t := by
  have h : LawsKept (filledBy s.receiver) (filledBy t.receiver) s.store s.jobs s.delivery.inbound t.store t.jobs
      t.delivery.inbound := by
    rw [hr, hs, hj, hd]
    exact .refl ..
  exact h

theorem orderReached_receiver (fuel : Nat) (s : State) : (orderReached fuel s).receiver = s.receiver := by
  induction fuel generalizing s with
  | zero => rfl
  | succ n ih =>
    unfold orderReached
    split
    · rfl
    · simp only
      split
      · exact endJob_receiver ..
      · split
        · exact endJob_receiver ..
        · split
          · rfl
          · split
            · exact endJob_receiver ..
            · rfl
          · exact ih _
          · rfl
          · exact endJob_receiver ..

theorem takeAttempt_receiver (s : State) : (takeAttempt s).receiver = s.receiver := (takeAttempt_sameBesideAttempt s).2.2.2.1

theorem nextOrder_receiver (s : State) : (nextOrder s).receiver = s.receiver := by
  unfold nextOrder
  split
  · rfl
  · exact (takeAttempt_receiver _).trans (orderReached_receiver ..)

theorem fanOut_receiver (targets : MasterSet) (e : DeliveryEntry) (s : State) : (fanOut targets e s).receiver = s.receiver := by
  unfold fanOut
  simp only
  split <;> rfl

theorem deliverTo_receiver (targets : MasterSet) (h : Header) (b : Option BufferId) (late : Bool) (s : State) :
    (deliverTo targets h b late s).receiver = s.receiver := by
  cases b with
  | none => rfl
  | some b => exact fanOut_receiver ..

theorem capture_receiver (r : Running) (outcome : AwaitOutcome) (b : Option BufferId) (s : State) :
    (capture r outcome b s).receiver = s.receiver := by
  unfold capture
  rw [nextOrder_receiver]
  cases b <;> simp

theorem deliverReply_receiver (outcome : AwaitOutcome) (h : Header) (b : Option BufferId) (s : State) :
    (deliverReply outcome h b s).receiver = s.receiver := by
  unfold deliverReply
  split
  · exact capture_receiver ..
  · simp only
    split
    · exact deliverTo_receiver ..
    · split
      · exact deliverTo_receiver ..
      · split <;> exact deliverTo_receiver ..

theorem deliverRequest_receiver (h : Header) (b : Option BufferId) (s : State) : (deliverRequest h b s).receiver = s.receiver := by
  unfold deliverRequest
  simp only
  split
  · exact leaveUse_receiver ..
  · split
    · split <;> rfl
    · split
      · exact deliverTo_receiver ..
      · split <;> rfl

theorem deliver_receiver (h : Header) (b : Option BufferId) (s : State) : (deliver h b s).receiver = s.receiver := by
  unfold deliver
  split
  · exact leaveUse_receiver ..
  · exact leaveUse_receiver ..
  · exact deliverReply_receiver ..
  · exact deliverReply_receiver ..
  · split
    · exact deliverRequest_receiver ..
    · exact deliverTo_receiver ..
  · exact deliverTo_receiver ..
  · exact leaveUse_receiver ..

theorem takeAttempt_keepsAll (s : State) : KeepsAllLaws s (takeAttempt s) :=
  keepsAll_of_receiver (takeAttempt_receiver s) (takeAttempt_keepsLaws ..)

theorem lineTime_keepsAll (n : Nat) (s : State) : KeepsAllLaws s (lineTime n s) :=
  keepsAll_of_receiver rfl (lineTime_keepsLaws ..)

/-! ### The frame in progress -/

/-- The buffer that an address character claims is that of the frame it begins (R58). -/
theorem startFrame_keepsLaws (data : Byte) (stop : Bool) (s : State) :
    KeepsLaws ∅ (filledBy (startFrame data stop s).receiver) s (startFrame data stop s) := by
  have none_filled : ∀ f : Frame, f.buffer = none → filledBy (some f) = ∅ := fun f hf => by
    rw [filledBy_some, hf, asSet_none]
  unfold startFrame
  simp only
  split
  · split
    · split
      · rename_i b st hc
        obtain ⟨rest, hq, rfl⟩ := Store.claimHead_eq hc
        refine claim_lawsKept hq rfl ⟨by simp, by simp, by simp⟩ fun c => ?_
        simp [filledBy, eq_comm]
      · rw [none_filled _ rfl]
        exact .refl ..
    · rw [none_filled _ rfl]
      exact .refl ..
  · rw [none_filled _ rfl]
    exact .refl ..

theorem endBadFrame_keepsLaws (e : ReceiveError) (f : Frame) (s : State) : KeepsLaws (asSet f.buffer) ∅ s (endBadFrame e f s) :=
  leaveUse_keepsLaws f.buffer (countAll e.counter s)

theorem takeAddress_keepsAll (data : Byte) (stop : Bool) (s : State) : KeepsAllLaws s (takeAddress data stop s) := by
  unfold takeAddress
  split
  · rename_i hr
    have h := startFrame_keepsLaws data stop s
    rwa [← filledBy_none, ← hr] at h
  · rename_i f hr
    have cut := endBadFrame_keepsLaws .framing f { s with receiver := none }
    have started := startFrame_keepsLaws data stop (endBadFrame .framing f { s with receiver := none })
    refine (reportFrame_keepsAll false _).after (started.after ?_)
    rw [hr, filledBy_some]
    exact cut

/-- A choice between two states keeps the laws when both do, whichever buffer the frame in progress then fills. -/
theorem ite_keepsLaws {fill : Set BufferId} {c : Prop} [Decidable c] {s t u : State} (ht : KeepsLaws fill (filledBy t.receiver) s t)
    (hu : KeepsLaws fill (filledBy u.receiver) s u) :
    KeepsLaws fill (filledBy (if c then t else u).receiver) s (if c then t else u) := by
  split
  · exact ht
  · exact hu

/-- A body character changes neither the buffer that the frame in progress fills nor any buffer record (R59). -/
theorem placeByte_keepsLaws (data : Byte) (p : Nat) (length : Option Byte) (b : BufferId) (f : Frame) (s : State) :
    KeepsLaws (asSet f.buffer) (filledBy (placeByte data p length b f s).receiver) s (placeByte data p length b f s) := by
  unfold placeByte
  exact ite_keepsLaws (.of_bytes rfl rfl) (.refl ..)

theorem takeBody_keepsAll (data : Byte) (stop : Bool) (s : State) : KeepsAllLaws s (takeBody data stop s) := by
  unfold takeBody
  split
  · exact .refl ..
  · rename_i f hr
    unfold KeepsAllLaws
    rw [hr, filledBy_some]
    unfold extendFrame
    extract_lets p header length inImage isCheck stored f1
    split
    · exact ite_keepsLaws (placeByte_keepsLaws data p length _ f1 s) (.refl ..)
    · exact .refl ..

theorem restartIdle_keepsAll (low : Nat) (s : State) : KeepsAllLaws s (restartIdle low s) :=
  keepsAll_of_same (by simp) (by simp) (by simp) (by simp)

theorem reportCharacter_keepsAll (s : State) : KeepsAllLaws s (reportCharacter s) :=
  keepsAll_of_same (by simp) (by simp) (by simp) (by simp)

theorem characterTime_keepsAll (low : Nat) (s : State) : KeepsAllLaws s (characterTime low s) :=
  (restartIdle_keepsAll low _).after (lineTime_keepsAll (s.line.low + Config.bitsPerCt) s)

theorem characterArrives_keepsAll (low : Nat) (s : State) : KeepsAllLaws s (characterArrives low s) :=
  (reportCharacter_keepsAll _).after (characterTime_keepsAll low s)

/-- A character that arrives on RXD keeps all laws when its taking does (R43, R49). -/
theorem receiveCharacter_keepsAll {take : State → State} (ht : ∀ s, KeepsAllLaws s (take s)) (low : Nat) (runs : List Rat)
    (s : State) : KeepsAllLaws s (receiveCharacter take low runs s) := by
  have taken : KeepsAllLaws s (take (characterArrives low s)) := (ht _).after (characterArrives_keepsAll ..)
  unfold receiveCharacter
  split
  · exact .refl ..
  · unfold hearCharacter
    split
    · simp only
      split
      · exact (detect_keepsAll ..).after taken
      · exact taken
    · exact restartIdle_keepsAll ..
    · exact characterTime_keepsAll ..

/-! ### The frame end -/

/-- A frame that ends fills its buffer no more. Only a frame matched in UP has one, so none is lost with a frame that is not
delivered (R58, R60, R62). -/
theorem endFrame_keepsLaws {f : Frame} {s : State} (hr : s.receiver = none)
    (hb : f.buffer ≠ none → s.line.state.isUp = true ∧ f.matched = some true) :
    KeepsLaws (asSet f.buffer) (filledBy (endFrame f s).receiver) s (endFrame f s) := by
  unfold endFrame
  split
  · rename_i e _
    have hn : (endBadFrame e f s).receiver = none := (leaveUse_receiver ..).trans hr
    have h := endBadFrame_keepsLaws e f s
    rw [← filledBy_none, ← hn] at h
    exact (reportFrame_keepsAll false _).after h
  · refine (reportFrame_keepsAll true _).after ?_
    split
    · have hn : (deliver (headerOf f.header) f.buffer s).receiver = none := (deliver_receiver ..).trans hr
      rw [hn, filledBy_none]
      exact deliver_keepsLaws ..
    · rename_i hd
      have hf : f.buffer = none := by
        by_contra hne
        exact hd (by simp [hb hne])
      rw [hf, asSet_none, hr, filledBy_none]
      exact .refl ..

theorem attemptBeforeFrameEnd_keepsAll (s : State) : KeepsAllLaws s (attemptBeforeFrameEnd s) := by
  unfold attemptBeforeFrameEnd
  split
  · exact .refl ..
  · exact takeAttempt_keepsAll s

theorem attemptBeforeFrameEnd_receiver (s : State) : (attemptBeforeFrameEnd s).receiver = s.receiver := by
  unfold attemptBeforeFrameEnd
  split
  · rfl
  · exact takeAttempt_receiver s

theorem attemptBeforeFrameEnd_line (s : State) : (attemptBeforeFrameEnd s).line.state = s.line.state := by
  unfold attemptBeforeFrameEnd
  split
  · rfl
  · rw [takeAttempt_sameLine s]

/-- FRAME_END keeps all laws where a frame in progress has a buffer only in UP and after a match (R58, R62). -/
theorem frameEnd_keepsAll {s t : State} (hl : LineLaw s) (h : exec .frameEnd s = .next t) : KeepsAllLaws s t := by
  simp only [exec, execFrameEnd] at h
  split at h <;> cases h
  · exact .refl ..
  · rename_i f hf
    obtain ⟨-, -, -, hbuf⟩ := hl
    have passed := (lineTime_keepsAll (endGapWait (attemptBeforeFrameEnd s)) _).after (attemptBeforeFrameEnd_keepsAll s)
    have hrec : (lineTime (endGapWait (attemptBeforeFrameEnd s)) (attemptBeforeFrameEnd s)).receiver = some f :=
      (attemptBeforeFrameEnd_receiver s).trans hf
    rw [hrec, filledBy_some] at passed
    refine (endFrame_keepsLaws rfl fun hne => ?_).after passed
    obtain ⟨hup, hm⟩ := hbuf f hf hne
    refine ⟨?_, hm⟩
    show (lineTime _ _).line.state.isUp = true
    rw [lineTime_isUp, attemptBeforeFrameEnd_line]
    exact hup

end Sys2Proof.Machine
end

section
/-!
PROOFS. What the events keep of the laws of jobs, buffers and inbound queues, and that every step keeps them (R5 to R9, R22 to R24, R58,
R87, R106, R112, R113).
-/

namespace Sys2Proof.Machine

/-! ### The transmitter -/

theorem Settled.lineTime {s : State} (h : Settled s) (n : Nat) : Settled (lineTime n s) := by
  intro q hq b k hd
  obtain ⟨r, hr, rfl⟩ := Option.map_eq_some_iff.mp (show s.jobs.running.map _ = some q from hq)
  exact h r hr b k (Doing.after_eq_due.mp hd)

theorem loopBackCopy_jobs (sender : Master) (copy : List Byte) (s : State) : (loopBackCopy sender copy s).jobs = s.jobs := by
  unfold loopBackCopy
  simp only
  split
  · rfl
  · exact fanOut_jobs ..

theorem loopBackCopy_receiver (sender : Master) (copy : List Byte) (s : State) :
    (loopBackCopy sender copy s).receiver = s.receiver := by
  unfold loopBackCopy
  simp only
  split
  · rfl
  · exact fanOut_receiver ..

theorem beginAttempt_receiver (r : Running) (b : BufferId) (h : Header) (s : State) : (beginAttempt r b h s).receiver = s.receiver :=
  (beginAttempt_sameBesideAttempt ..).2.2.2.1

theorem order_of_currentSend {r : Running} {b : BufferId} {h : Header} (hc : currentSend r = some (b, h)) :
    r.job.orders[r.job.index]? = some ⟨.send b, some h⟩ := by
  unfold currentSend at hc
  split at hc
  · rename_i ho
    cases hc
    exact ho
  · cases hc

theorem attemptCollided_keepsAll {r : Running} {s : State} (hs : Settled s) (hr : s.jobs.running = some r) :
    KeepsAllLaws s (attemptCollided r s) := by
  have ended : ∀ outcome failing, KeepsAllLaws s (endJob outcome failing s) := fun outcome failing =>
    keepsAll_of_receiver (endJob_receiver ..) (endJob_keepsLaws ..)
  unfold attemptCollided
  split
  · exact ended ..
  · split
    · simp only
      split
      · rename_i b h hc
        refine keepsAll_of_receiver (beginAttempt_receiver ..) (.of_lawful fun hl => ?_)
        have hb := (hl.held.running r hr).send_ne_filling (order_of_currentSend hc)
        refine LawsKept.after (beginAttempt_keepsLaws ?_) (setRunning_keepsLaws hr ⟨rfl, rfl, rfl, rfl⟩ ?_)
        · exact hb
        · exact fun c k e => absurd e (hs r hr c k)
      · exact .refl ..
    · exact ended ..

theorem attemptCompleted_keepsAll {r : Running} (a : Attempt) {s : State} (hs : Settled s) (hr : s.jobs.running = some r) :
    KeepsAllLaws s (attemptCompleted r a s) := by
  unfold attemptCompleted
  extract_lets h src r' s1 s2
  have recorded : KeepsAllLaws s s1 :=
    keepsAll_of_receiver rfl (setRunning_keepsLaws hr ⟨rfl, rfl, rfl, rfl⟩ fun c k e => absurd e (hs r hr c k))
  have copied : KeepsAllLaws s1 s2 := by
    simp only [s2]
    split
    · exact keepsAll_of_receiver (loopBackCopy_receiver ..) (loopBackCopy_keepsLaws ..)
    · exact .refl ..
  have settled : Settled s2 := by
    have hj : s2.jobs = s1.jobs := by
      simp only [s2]
      split
      · exact loopBackCopy_jobs ..
      · rfl
    exact settled_of_doing (r := r') (by rw [hj]; rfl) (hs r hr)
  refine LawsKept.after ?_ (recorded.trans copied)
  split
  · exact keepsAll_of_receiver (endJob_receiver ..) (endJob_keepsLaws ..)
  · exact keepsAll_of_receiver (nextOrder_receiver _) (nextOrder_keepsLaws _ settled)

theorem turnaroundEnds_keepsAll {s : State} (hs : Settled s) : KeepsAllLaws s (turnaroundEnds s) := by
  unfold turnaroundEnds
  split
  · rename_i f left _
    have passed : KeepsAllLaws s (setWire .none (lineTime left s)) := lineTime_keepsAll left s
    have settled : Settled (setWire .none (lineTime left s)) := hs.lineTime left
    refine LawsKept.after ?_ passed
    unfold releaseDriver
    split
    · exact .refl ..
    · split
      · exact .refl ..
      · split
        · exact .refl ..
        · rename_i r hr
          split
          · exact attemptCollided_keepsAll settled hr
          · exact attemptCompleted_keepsAll _ settled hr
  · exact .refl ..

theorem characterSent_keepsAll (echo : BitVec 11) (low : Nat) (s : State) : KeepsAllLaws s (characterSent echo low s) := by
  have leaves : ∀ n, KeepsAllLaws s (characterLeaves n s) := fun n =>
    (reportCharacter_keepsAll _).after ((restartIdle_keepsAll n _).after (lineTime_keepsAll Config.bitsPerCt s))
  have wire : ∀ w u, KeepsAllLaws u (setWire w u) := fun _ _ => .refl ..
  unfold characterSent
  split
  · refine LawsKept.after ?_ (leaves (lowAfter (echo.getLsbD 10) low))
    unfold finishCharacter
    split
    · exact wire ..
    · split
      · exact LawsKept.refl ..
      · exact wire ..
  · exact .refl ..

theorem sendAttempt_keepsAll (s : State) : KeepsAllLaws s (sendAttempt s) := by
  unfold sendAttempt
  split
  · split
    · exact lineTime_keepsAll _ s
    · exact .refl ..
  · exact .refl ..

theorem sendBusy_keepsAll (s : State) : KeepsAllLaws s (sendBusy s) := by
  unfold sendBusy
  split
  · split
    · exact lineTime_keepsAll _ s
    · exact .refl ..
  · exact .refl ..

/-! ### The job engine's events -/

theorem outbound_of_chosen {s : State} {m : Master} {j : Job} {rest : List Job} (h : chosen s = some (m, j, rest)) :
    s.jobs.outbound.get m = j :: rest := by
  obtain ⟨n, -, hn⟩ := List.exists_of_findSome?_eq_some h
  split at hn
  · cases hn
  · rename_i hq
    split at hn <;> cases hn
    exact hq

/-- The head job of a queue becomes the RUNNING one (R117): its tag stays in use and it holds what it held. -/
theorem grant_keepsLaws {fill : Set BufferId} {s : State} {m : Master} {j : Job} {rest : List Job} (tenure : Nat) (next : Master)
    (hn : s.jobs.running = none) (hq : s.jobs.outbound.get m = j :: rest) :
    KeepsLaws fill fill s { s with jobs := { s.jobs with
      outbound := s.jobs.outbound.set m rest, running := some ⟨j, tenure, .send⟩, pointer := next } } := by
  refine ⟨fun h => ⟨⟨?_, h.records, ⟨fun n i hi => ?_, fun r hr => ?_⟩⟩, id⟩⟩
  · have hm : j.master = m := (h.queues.queued m j (by rw [hq]; exact List.mem_cons_self ..)).1
    refine h.queues.of_subperm (fun n => ?_) fun n i hi => ?_
    · rw [Jobs.tags_eq_of_some (r := ⟨j, tenure, .send⟩) rfl, Jobs.tags_eq_of_none hn]
      by_cases hnm : n = m
      · subst hnm
        simp only [PerMaster.get_set_self, hq, hm, if_true, List.map_cons]
        exact ((List.perm_append_singleton _ _).append_right _).subperm
      · have hne : j.master ≠ n := by rw [hm]; exact Ne.symm hnm
        simp only [PerMaster.get_set_of_ne _ hnm, if_neg hne, List.append_nil]
        exact List.Subperm.refl _
    · by_cases hnm : n = m
      · subst hnm
        rw [PerMaster.get_set_self] at hi
        rw [hq]
        exact List.mem_cons_of_mem _ hi
      · rwa [PerMaster.get_set_of_ne _ hnm] at hi
  · by_cases hnm : n = m
    · subst hnm
      rw [PerMaster.get_set_self] at hi
      exact h.held.queued n i (by rw [hq]; exact List.mem_cons_of_mem _ hi)
    · rw [PerMaster.get_set_of_ne _ hnm] at hi
      exact h.held.queued n i hi
  · obtain rfl := Option.some.inj (show some (⟨j, tenure, .send⟩ : Running) = some r from hr)
    have hj : j ∈ s.jobs.outbound.get m := by rw [hq]; exact List.mem_cons_self ..
    have hnone : j.reply = none := (h.queues.queued m j hj).2
    refine ⟨h.held.queued m j hj, fun b hb => ?_, fun b k e => by cases e⟩
    rw [hnone] at hb
    cases hb

theorem grant_keepsAll {s t : State} (h : exec .grant s = .next t) : KeepsAllLaws s t := by
  simp only [exec, execGrant] at h
  split at h
  · rename_i hg
    have hn : s.jobs.running = none := by
      rw [Bool.and_eq_true, Bool.and_eq_true, Option.isNone_iff_eq_none] at hg
      exact hg.1.1
    split at h <;> cases h
    · rename_i m j rest hc
      refine keepsAll_of_receiver (orderReached_receiver ..) ?_
      refine LawsKept.after (orderReached_keepsLaws _ orderFuel (settled_of_doing rfl fun b k e => by cases e)) ?_
      exact grant_keepsLaws _ _ hn (outbound_of_chosen hc)
    · exact .refl ..
  · cases h
    exact .refl ..

theorem nextOrder_keepsAll {s : State} (h : Settled s) : KeepsAllLaws s (nextOrder s) :=
  keepsAll_of_receiver (nextOrder_receiver s) (nextOrder_keepsLaws _ h)

theorem silenceAwait_settled {s : State} (h : Settled s) : Settled (silenceAwait s) := by
  unfold silenceAwait
  split
  · split
    · exact settled_setRunning fun b k e => by cases e
    · exact h
  · exact h

theorem responseExpires_keepsAll {s : State} (h : Settled s) : KeepsAllLaws s (responseExpires s) := by
  unfold responseExpires
  split
  · refine (nextOrder_keepsAll (silenceAwait_settled (h.lineTime _))).after ?_
    exact LawsKept.after (keepsAll_of_receiver (silenceAwait_receiver _) (silenceAwait_keepsLaws ..)) (lineTime_keepsAll ..)
  · exact .refl ..

theorem waitExpires_keepsAll {s : State} (h : Settled s) : KeepsAllLaws s (waitExpires s) := by
  unfold waitExpires
  split
  · exact (nextOrder_keepsAll (h.lineTime _)).after (lineTime_keepsAll ..)
  · exact .refl ..

theorem tenureExpires_keepsAll (s : State) : KeepsAllLaws s (tenureExpires s) := by
  unfold tenureExpires
  split
  · exact LawsKept.after (keepsAll_of_receiver (endInProgress_receiver ..) (endInProgress_keepsLaws ..)) (lineTime_keepsAll ..)
  · exact .refl ..

/-! ### The line's timers -/

theorem silenceExpires_keepsAll (s : State) : KeepsAllLaws s (silenceExpires s) := by
  unfold silenceExpires
  split
  · rename_i silence _ _
    refine LawsKept.after ?_ (lineTime_keepsAll (silenceTimeout s.line.settings - silence) s)
    unfold timeOut
    simp only
    split
    · exact (goSeek_keepsAll _).of_eq rfl rfl rfl rfl
    · exact keepsAll_of_same (by simp) (by simp) (by simp) (by simp)
  · exact .refl ..

theorem windowExpires_keepsAll (s : State) : KeepsAllLaws s (windowExpires s) := by
  unfold windowExpires
  split
  · exact (goSeek_keepsAll _).after (lineTime_keepsAll _ s)
  · exact .refl ..

theorem holdExpires_keepsAll (s : State) : KeepsAllLaws s (holdExpires s) := by
  unfold holdExpires
  split
  · exact .refl ..
  · exact lineTime_keepsAll _ s

/-! ### The frame store's events -/

theorem upsetWord_keepsAll (w : WordNo) (bit : Fin 72) (s : State) : KeepsAllLaws s (upsetWord w bit s) := by
  have added : KeepsAllLaws s { s with store := s.store.addUpset w (upsetMask bit) } := by
    rw [s.store.addUpset_eq]
    exact .of_bytes rfl rfl
  unfold upsetWord
  split
  · exact .refl ..
  · split
    · simp only
      split
      · exact added
      · exact .refl ..
    · exact added

theorem patrol_keepsAll (s : State) : KeepsAllLaws s (patrol s) := by
  have index : ∀ (u : State) (i : WordNo), KeepsAllLaws u { u with store := { u.store with patrolIndex := i } } :=
    fun u i => .of_bytes rfl rfl
  unfold patrol
  simp only
  split
  · exact index s _
  · rename_i hw
    refine (index _ _).after ?_
    exact keepsAll_of_receiver (readWord_sameBesideStore ..).2.2.2.1 (readWord_keepsLaws hw)

/-! ### Reset -/

theorem Store.buffer_reset (us : List Upset) (b : BufferId) : ({ Store.reset with upsets := us } : Store).buffer b = ⟨.free, false⟩ := by
  simp [Store.buffer, Store.reset]

/-- The laws hold of the blocks at reset, where no buffer is in use and no job queued (R27). -/
theorem Lawful.reset (us : List Upset) : Lawful ∅ { Store.reset with upsets := us } Jobs.reset := by
  refine ⟨⟨fun m => ?_, fun m => ?_, fun m j hj => ?_⟩, ⟨List.nodup_finRange 96, fun b => ?_, fun b => ?_, fun b => ?_⟩,
    ⟨fun m j hj => ?_, fun r hr => by cases hr⟩⟩
  · simp [Jobs.tags, Jobs.reset]
  · simp [Jobs.tags, Jobs.reset]
  · simp [Jobs.reset] at hj
  · rw [Store.buffer_reset]
    exact iff_of_true (List.mem_finRange b) rfl
  · rw [Store.buffer_reset]
    exact ⟨fun _ => rfl, by simp, by simp⟩
  · rw [Store.buffer_reset]
    simp
  · simp [Jobs.reset] at hj

theorem LawfulQueues.reset (us : List Upset) : LawfulQueues { Store.reset with upsets := us } Delivery.reset.inbound := by
  refine ⟨fun m => ?_, fun m => ?_, fun m b => ?_, fun b => ?_⟩
  · simp [Delivery.reset]
  · simp [Delivery.reset]
  · rw [Store.buffer_reset]
    simp [Delivery.reset, BufferState.pendingSet, MasterSet.get_empty]
  · rw [Store.buffer_reset]
    simp

theorem keepsAll_of_reset {s t : State} (us : List Upset) (hr : t.receiver = none) (hs : t.store = { Store.reset with upsets := us })
    (hj : t.jobs = Jobs.reset) (hd : t.delivery = Delivery.reset) : KeepsAllLaws s t := by
  have h : Lawful (filledBy t.receiver) t.store t.jobs ∧ LawfulQueues t.store t.delivery.inbound := by
    rw [hr, filledBy_none, hs, hj, hd]
    exact ⟨.reset us, .reset us⟩
  exact ⟨fun _ => ⟨h.1, fun _ => h.2⟩⟩

/-! ### Every event and every step -/

theorem event_keepsAll {i : Instr} {s t : State} (hl : LineLaw s) (hi : effectOf i = none) (hb : ∀ m b, i ≠ .byteArrives m b)
    (h : exec i s = .next t) : KeepsAllLaws s t := by
  have attempt := takeAttempt_keepsAll s
  have settled := takeAttempt_settled s
  cases i <;> simp only [effectOf, reduceCtorEq] at hi
  case powerOn => cases h; exact keepsAll_of_reset [] rfl rfl rfl rfl
  case startUpClearEnd =>
    cases h
    split
    · exact keepsAll_of_reset s.store.upsets rfl rfl rfl rfl
    · exact .refl ..
  case storeUpset w bit =>
    simp only [exec, execStoreUpset] at h
    split at h
    · cases h
      exact upsetWord_keepsAll ..
    · cases h
  case patrolVisit =>
    cases h
    split
    · exact .refl ..
    · exact patrol_keepsAll s
  case csFalls =>
    cases h
    split <;> exact .refl ..
  case csRises => cases h; exact .refl ..
  case unknownCommand =>
    cases h
    split <;> exact .refl ..
  case addressCharacter data stop runs low =>
    cases h
    exact attempt.trans (receiveCharacter_keepsAll (takeAddress_keepsAll data stop) ..)
  case bodyCharacter data stop runs low =>
    cases h
    exact attempt.trans (receiveCharacter_keepsAll (takeBody_keepsAll data stop) ..)
  case frameEnd => exact frameEnd_keepsAll hl h
  case attemptBeginsSending => cases h; exact attempt.trans (sendAttempt_keepsAll _)
  case automaticBusyStart => cases h; exact attempt.trans (sendBusy_keepsAll _)
  case characterSent => cases h; exact attempt.trans (characterSent_keepsAll ..)
  case deRelease => cases h; exact attempt.trans (turnaroundEnds_keepsAll settled)
  case grant => exact grant_keepsAll h
  case responseTimerExpiry => cases h; exact attempt.trans (responseExpires_keepsAll settled)
  case waitTimerExpiry => cases h; exact attempt.trans (waitExpires_keepsAll settled)
  case tenureTimerExpiry => cases h; exact attempt.trans (tenureExpires_keepsAll _)
  case silenceTimeout => cases h; exact attempt.trans (silenceExpires_keepsAll _)
  case qualificationWindowExpiry => cases h; exact attempt.trans (windowExpires_keepsAll _)
  case holdEntryExpiry => cases h; exact attempt.trans (holdExpires_keepsAll _)
  case syncEdge =>
    cases h
    split <;> exact .refl ..
  case timeBaseIncrement =>
    cases h
    refine attempt.trans ?_
    unfold countMicrosecond
    split <;> exact .refl ..
  case byteArrives m b => exact absurd rfl (hb m b)
  case answerByteClockedOut => cases h; exact .refl ..

/-- Every step keeps the laws of O59 and O60. -/
theorem step_keepsAll {s t : State} (hl : LineLaw s) (h : step s = .next t) : KeepsAllLaws s t :=
  step_induction (R := KeepsAllLaws) (fun _ => .refl ..) .trans (fun _ h => h) takeAttempt_keepsAll (fun _ _ _ => .refl ..)
    effect_keepsAll lineTime_keepsAll (event_keepsAll hl) h

/-- Settles O59: each operation of the model keeps the laws of jobs and buffers together, so every step does. -/
theorem stepKeepsBuffersAndJobs : Obligations.StepKeepsBuffersAndJobs := by
  unfold Obligations.StepKeepsBuffersAndJobs
  intro s t hl hj hb h
  exact (lawful_iff t).mp ((step_keepsAll hl h).keeps ((lawful_iff s).mpr ⟨hj, hb⟩)).1

/-- Settles O60: where the laws of jobs and buffers hold, each operation of the model keeps that of the inbound queues too. -/
theorem stepKeepsTheDeliveryLaw : Obligations.StepKeepsTheDeliveryLaw := by
  unfold Obligations.StepKeepsTheDeliveryLaw
  intro s t hl hj hb hd h
  exact (deliveryLaw_iff t).mpr
    (((step_keepsAll hl h).keeps ((lawful_iff s).mpr ⟨hj, hb⟩)).2 ((deliveryLaw_iff s).mp hd))

end Sys2Proof.Machine
end

section
/-!
PROOFS. The frame store: reads through correction and their findings (R3, R20 to R23), store upsets (R1), the patrol (R25), and buffers
that leave use (R9).
-/

namespace Sys2Proof.Machine

/-! ### Reads through correction -/

/-- Everything that an uncorrectable finding on a buffer in use can change (R22). -/
theorem uncorrectableFinding_eq {w : WordNo} {s : State} (h : (s.store.buffer (bufferOf w)).state ≠ .free) :
    uncorrectableFinding w s = { s with
      store := { s.store with
        buffers := (uncorrectableFinding w s).store.buffers, damagedWords := (uncorrectableFinding w s).store.damagedWords },
      line := { s.line with flags := (uncorrectableFinding w s).line.flags }, notices := (uncorrectableFinding w s).notices,
      counters := s.counters.map fun k => { k with uncorrectable := countUp k.uncorrectable } } := by
  simp only [uncorrectableFinding, h, if_false]
  unfold offerDamaged
  (repeat' split) <;> rfl

/-- An uncorrectable finding on a buffer in use leaves every word's condition (R22). -/
theorem uncorrectableFinding_condition {w : WordNo} {s : State} (h : (s.store.buffer (bufferOf w)).state ≠ .free) (v : WordNo) :
    (uncorrectableFinding w s).store.condition v = s.store.condition v := by
  rw [uncorrectableFinding_store h]
  rfl

theorem Store.condition_writeWord_eq (st : Store) (w v : WordNo) (bytes : List Byte) :
    (st.writeWord w bytes).condition v = if v = w then .clean else st.condition v := by
  split
  · subst_vars; exact st.condition_writeWord ..
  · exact st.condition_writeWord_of_ne ‹_› _

/-- An uncorrectable finding on a FREE buffer, with the zeros it writes (R21). -/
theorem uncorrectableFinding_writes_zeros {w : WordNo} {s : State} (h : (s.store.buffer (bufferOf w)).state = .free) :
    uncorrectableFinding w s = countAll .uncorrectable { s with store := s.store.writeWord w (List.replicate 8 0) } :=
  uncorrectableFinding_of_free h

/-- Settles O21: by the word's condition. -/
theorem readThroughCorrection : Obligations.ReadThroughCorrection := by
  unfold Obligations.ReadThroughCorrection
  refine ⟨fun _ => rfl, fun _ _ _ => rfl, fun _ _ _ => rfl, fun w s => ⟨rfl, readWord_clean, fun hs => ?_, fun hd => ?_⟩⟩
  · rw [readWord_single hs]
    exact ⟨rfl, rfl, s.store.condition_clearUpset w⟩
  · rw [readWord_double hd]
    refine ⟨rfl, fun u hu k hk => ?_, fun hf => ⟨_, rfl, uncorrectableFinding_buffer hf, uncorrectableFinding_condition hf,
      uncorrectableFinding_eq hf⟩, fun hf => ?_⟩
    · have hat : s.store.upsetAt w = some u := hu
      rw [s.store.wordBit_standing w hk, hat]
      simp
    · rw [uncorrectableFinding_writes_zeros hf]
      exact ⟨rfl, fun v => s.store.condition_writeWord_eq ..⟩

/-! ### What an uncorrectable finding reports -/

/-- A word finds no room in the damaged-word table (R23). -/
def Store.overflows (st : Store) (w : WordNo) : Bool := decide (w ∉ st.damagedWords) && decide (16 ≤ st.damagedWords.length)

/-- A word offered to the damaged-word table latches OVERFLOW and raises LINE at every master exactly when there is no room (R23). -/
theorem offerDamaged_reports (w : WordNo) (s : State) (m : Master) :
    (offerDamaged w s).line.flags.get m = { s.line.flags.get m with
      overflow := (s.line.flags.get m).overflow || s.store.overflows w } ∧
    (offerDamaged w s).notices.get m = { s.notices.get m with request := { (s.notices.get m).request with
      line := (s.notices.get m).request.line || s.store.overflows w } } := by
  unfold offerDamaged Store.overflows
  by_cases hw : w ∈ s.store.damagedWords
  · simp [hw]
  · by_cases hl : s.store.damagedWords.length < 16
    · have hn : ¬16 ≤ s.store.damagedWords.length := by omega
      simp [hw, hl, hn, Config.damagedCapacity]
    · have hn : 16 ≤ s.store.damagedWords.length := by omega
      simp [hw, hl, hn, Config.damagedCapacity, latchAll, raiseAll, Notices.raise, PerSource.set]

theorem concerned_get (v : BufferState) (m : Master) : v.concerned.get m = match v with
    | .owned o => decide (o = m)
    | .inJob o _ => decide (o = m)
    | .delivered pending holders => pending.get m || holders.get m
    | _ => false := by
  cases v <;> simp [BufferState.concerned, MasterSet.get_singleton, MasterSet.get_empty, eq_comm]

/-- A STORE request at the masters of a set (R151). -/
theorem raiseIn_store_request (ms : MasterSet) (s : State) (m : Master) : (raiseIn ms .store s).notices.get m =
    { s.notices.get m with request := { (s.notices.get m).request with
      store := (s.notices.get m).request.store || ms.get m } } := by
  unfold raiseIn
  rw [PerMaster.get_tabulate]
  cases h : ms.get m <;> simp [Notices.raise, PerSource.set]

/-- Settles O22: the finding offers the word to the damaged-word table and raises STORE at the masters concerned. -/
theorem uncorrectableFindingIsReported : Obligations.UncorrectableFindingIsReported := by
  unfold Obligations.UncorrectableFindingIsReported
  intro w s hd hf t overflows
  simp only [t, readWord_double hd]
  refine ⟨uncorrectableFinding_damagedWords hf, fun m _ => ?_⟩
  obtain ⟨hflags, hnotices⟩ := offerDamaged_reports w
    { s with store := s.store.setBuffer (bufferOf w) { s.store.buffer (bufferOf w) with damaged := true } } m
  simp only [uncorrectableFinding, if_neg hf]
  refine ⟨hflags, ?_⟩
  refine (raiseIn_store_request _ _ m).trans ?_
  rw [hnotices, concerned_get]
  rfl

/-! ### Store upsets -/

/-- What a store upset of a word's bit leaves of conditions and standing bits (R1). -/
theorem Store.addUpset_struck (st : Store) (w : WordNo) (bit : Fin 72) :
    (st.addUpset w (upsetMask bit)).condition w = (if st.condition w = .clean then .singleUpset else .doubleUpset) ∧
    (∀ k, k < 64 → wordBit ((st.addUpset w (upsetMask bit)).standing w) k = (wordBit (st.standing w) k ^^ decide (k = bit.val))) ∧
    ∀ v : WordNo, v ≠ w → (st.addUpset w (upsetMask bit)).condition v = st.condition v ∧
      (st.addUpset w (upsetMask bit)).standing v = st.standing v := by
  refine ⟨st.condition_addUpset_self .., fun k hk => ?_, fun v hv => ⟨st.condition_addUpset_of_ne hv _, st.standing_addUpset_of_ne hv _⟩⟩
  rw [st.wordBit_addUpset w _ hk, getLsbD_upsetMask bit hk]

theorem Store.upsetAt_isNone_iff (st : Store) (w : WordNo) : (st.upsetAt w).isNone = true ↔ st.condition w = .clean := by
  unfold Store.condition
  cases st.upsetAt w with
  | none => simp
  | some u => cases hd : u.double <;> simp [hd]

theorem exec_storeUpset (w : WordNo) (bit : Fin 72) (s : State) : exec (.storeUpset w.val bit) s = .next (upsetWord w bit s) :=
  dif_pos w.isLt

/-- With RESET# high, an upset strikes a word that the start-up clear no longer writes (R1, R26). -/
theorem upsetWord_of_high {w : WordNo} {bit : Fin 72} {s : State} (hr : s.resetLow = false)
    (h : s.clearing = false ∨ s.store.condition w ≠ .clean) :
    upsetWord w bit s = { s with store := s.store.addUpset w (upsetMask bit) } := by
  have hn : ¬(s.clearing && (s.store.upsetAt w).isNone) = true := by
    rw [Bool.and_eq_true, s.store.upsetAt_isNone_iff]
    rintro ⟨h1, h2⟩
    exact h.elim (fun h => absurd (h1.symm.trans h) (by simp)) fun h => h h2
  unfold upsetWord
  rw [if_neg (by rw [hr]; simp), if_neg hn]

/-- During the start-up clear a free value says whether an upset strikes a clean word (R26; assumption log 3). -/
theorem upsetWord_of_clearing {w : WordNo} {bit : Fin 72} {s : State} (hr : s.resetLow = false) (hc : s.clearing = true)
    (hw : s.store.condition w = .clean) :
    upsetWord w bit s = { s with
      store := if Config.upsetAfterClearingWrite s.fresh w.val then s.store.addUpset w (upsetMask bit) else s.store
      fresh := s.fresh + 1 } := by
  have hy : (s.clearing && (s.store.upsetAt w).isNone) = true := by
    rw [Bool.and_eq_true, s.store.upsetAt_isNone_iff]
    exact ⟨hc, hw⟩
  unfold upsetWord
  rw [if_neg (by rw [hr]; simp), if_pos hy]
  simp only
  split <;> rfl

/-- Settles O23: by RESET# and whether the start-up clear may still write the word. -/
theorem upsetMovesTheCondition : Obligations.UpsetMovesTheCondition := by
  unfold Obligations.UpsetMovesTheCondition
  refine ⟨fun word bit s h => dif_neg h, fun w bit s => ?_⟩
  have struck := s.store.addUpset_struck w bit
  rw [exec_storeUpset]
  refine ⟨fun hr => ?_, fun hr hc => ?_, fun hr hc hw => ?_⟩
  · exact congrArg _ (if_pos hr)
  · refine ⟨_, congrArg _ (upsetWord_of_high hr hc), struck, ?_⟩
    simp only
    rw [← s.store.addUpset_eq]
  · refine ⟨_, congrArg _ (upsetWord_of_clearing hr hc hw), ?_⟩
    cases Config.upsetAfterClearingWrite s.fresh w.val
    · exact ⟨.inr rfl, rfl⟩
    · refine ⟨.inl struck, ?_⟩
      simp only [if_true]
      rw [← s.store.addUpset_eq]

/-! ### The patrol -/

/-- Settles O24: the visit reads one word or passes it by, and the index moves on. -/
theorem patrolVisitsOneWord : Obligations.PatrolVisitsOneWord := by
  unfold Obligations.PatrolVisitsOneWord
  refine fun s => ⟨fun hc hp => ⟨patrol s, ?_, ?_, fun hf => ?_, fun hf => ?_⟩, fun h => ?_⟩
  · simp [exec, execPatrolVisit, hc, hp]
  · show ((s.store.patrolIndex + 1 : WordNo)).val = _
    rw [Fin.val_add]
    rfl
  · simp [patrol, hf]
  · simp [patrol, hf]
  · have he : (s.clearing || !s.line.settings.patrol) = true := by
      rcases h with h | h <;> simp [h]
    simp [exec, execPatrolVisit, he]

/-! ### Buffers that leave use -/

/-- Settles O27: by the damaged flag. -/
theorem leavingUse : Obligations.LeavingUse := by
  unfold Obligations.LeavingUse
  intro st b
  refine ⟨fun v => ⟨fun c => ?_, rfl⟩, fun hd => ?_, fun hd => ?_, fun c hc => st.leaveUse_buffer_of_ne hc, st.leaveUse_mem b,
    st.leaveUse_upsets b, st.leaveUse_damagedWords b, st.leaveUse_patrolIndex b⟩
  · by_cases hc : c = b
    · subst hc; rw [if_pos rfl]; exact st.buffer_setState_self ..
    · rw [if_neg hc]; exact st.buffer_setState_of_ne hc _
  · rw [st.buffer_leaveUse_self, st.freeQueue_leaveUse, hd]
    exact ⟨rfl, rfl⟩
  · rw [st.buffer_leaveUse_self, st.freeQueue_leaveUse, hd]
    exact ⟨rfl, rfl⟩

end Sys2Proof.Machine
end

section
/-!
PROOFS. Reset and the start-up clear (R26, R27), the commands that read and change nothing (R71, R139, R174, R175, R179, R19), and the
buffer commands ALLOC, FREE, ADOPT and SCRUB (R12 to R14, R18).
-/

namespace Sys2Proof.Machine

/-! ### Reset -/

theorem attnLow_reset (m : Master) (t : State) (h : t.notices = PerMaster.replicate Notices.reset) : attnLow m t = false := by
  unfold attnLow
  rw [h, PerMaster.get_replicate]
  rfl

theorem exec_powerOn (held : Bool) (s : State) : exec (.powerOn held) s = .next { State.reset with
    resetLow := held,
    ports := PerMaster.tabulate fun m => ⟨(s.ports.get m).csLow, .deselected, ⟨24, 12, true⟩⟩,
    fresh := s.fresh, pending := s.pending } := rfl

theorem exec_startUpClearEnd {s : State} (hc : s.clearing = true) (hr : s.resetLow = false) :
    exec .startUpClearEnd s = .next { State.reset with
      clearing := false, store := { Store.reset with upsets := s.store.upsets },
      ports := s.ports.map fun p => { p with settings := PortSettings.reset }, fresh := s.fresh, pending := s.pending } :=
  congrArg _ (if_pos (by rw [hc, hr]; rfl))

theorem usage_reset (us : List Upset) (m : Master) : ({ Store.reset with upsets := us } : Store).usage m = 0 := by
  unfold Store.usage
  simp only [Store.buffer_reset]
  exact List.length_eq_zero_iff.mpr (List.filter_eq_nil_iff.mpr fun _ _ => by simp [BufferState.usedBy])

/-- Settles O2: the values of reset, read off field by field. -/
theorem powerOnAndTheClear : Obligations.PowerOnAndTheClear := by
  unfold Obligations.PowerOnAndTheClear
  refine ⟨fun held s => ⟨_, exec_powerOn held s, rfl, rfl, fun m _ => attnLow_reset m _ rfl⟩, fun s hr => ?_, fun s hc hr =>
    ⟨_, exec_startUpClearEnd hc hr, ?_⟩⟩
  · exact congrArg _ (if_neg (by rw [hr]; simp))
  · refine ⟨rfl, rfl, rfl, rfl, Store.buffer_reset _, rfl, rfl, rfl, fun m _ => ?_, rfl, rfl, rfl, rfl, rfl, rfl, rfl, rfl, rfl, rfl,
      rfl, rfl, rfl⟩
    refine ⟨usage_reset _ m, ?_⟩
    cases m <;> exact ⟨rfl, rfl, rfl, rfl, rfl, rfl, rfl, rfl, rfl, rfl, rfl, rfl, rfl⟩

theorem jobAndBufferLaw_reset : JobLaw State.reset ∧ BufferLaw State.reset := by
  rw [← lawful_iff, show State.reset.receiver = none from rfl, filledBy_none]
  exact Lawful.reset []

theorem deliveryLaw_reset : DeliveryLaw State.reset := (deliveryLaw_iff _).mpr (.reset [])

theorem settingsLaw_reset : SettingsLaw State.reset := by
  refine ⟨?_, fun m _ => ?_⟩
  · unfold Settings.inRange
    decide
  · rw [show State.reset.ports.get m = Port.reset from PerMaster.get_replicate ..]
    unfold PortSettings.inRange
    decide

theorem lineLaw_reset : LineLaw State.reset :=
  ⟨rfl, fun h => absurd rfl h, fun _ => rfl, fun _ hf => nomatch hf⟩

theorem holdLaw_reset : HoldLaw State.reset :=
  ⟨Nat.zero_le _, List.nodup_nil, fun _ h => absurd h List.not_mem_nil, fun _ => rfl⟩

theorem noticeLaw_reset : NoticeLaw State.reset := fun m _ => by
  rw [show State.reset.notices.get m = Notices.reset from PerMaster.get_replicate ..]
  exact List.Pairwise.nil

theorem tableLaw_reset : TableLaw State.reset := ⟨Nat.zero_le _, List.nodup_nil, fun _ h => absurd h List.not_mem_nil⟩

theorem resetLaw_reset : ResetLaw State.reset := fun h => nomatch h

/-- Settles O55: at reset nothing is in use, queued, listed or active; the clear's end changes none of what the laws speak of. -/
theorem resetKeepsTheLaws : Obligations.ResetKeepsTheLaws := by
  unfold Obligations.ResetKeepsTheLaws
  intro laws
  have held : laws State.reset := ⟨Store.Canonical.reset .nil, tableLaw_reset, settingsLaw_reset, lineLaw_reset,
    holdLaw_reset, noticeLaw_reset, Store.ListsDamage.reset [], jobAndBufferLaw_reset.1, jobAndBufferLaw_reset.2, deliveryLaw_reset⟩
  refine ⟨⟨held, resetLaw_reset⟩, fun t ht => ?_⟩
  rw [exec_startUpClearEnd rfl rfl] at ht
  cases ht
  exact held

/-! ### Commands -/

/-- A command taken on a port that is ready for it (R163, R164). -/
theorem exec_of_ready {i : Instr} {m : Master} {code : Byte} {args : List Byte} {effect : State → Reply}
    (hb : commandBytes i = some (m, code, args)) (he : effectOf i = some effect) {s : State} (h : Ready m code args s) :
    exec i s = .next (answered m (effect s).status (effect s).results (effect s).state) := by
  rw [exec_command hb he, commandStep_of_ready h]

theorem halfBytes_ofNat (n : Nat) : halfBytes (BitVec.ofNat 16 n) = [BitVec.ofNat 8 (n / 256), BitVec.ofNat 8 n] := by
  unfold halfBytes
  congr 1
  · apply BitVec.eq_of_toNat_eq
    simp only [BitVec.toNat_ofNat]
    omega
  · congr 1
    apply BitVec.eq_of_toNat_eq
    simp only [BitVec.toNat_ofNat]
    omega

/-- The response timer as JOB STATUS returns it (R123, R139). -/
theorem halfBytes_responseTimerValue (s : State) : halfBytes (responseTimerValue s) = match s.jobs.running with
    | some ⟨_, _, .await _ left⟩ => [BitVec.ofNat 8 (left / 11 / 256), BitVec.ofNat 8 (left / 11)]
    | _ => [0xFF, 0xFF] := by
  have none_runs : halfBytes 0xFFFF = [0xFF, 0xFF] := by decide
  unfold responseTimerValue
  cases s.jobs.running with
  | none => exact none_runs
  | some r =>
    obtain ⟨job, tenure, doing⟩ := r
    cases doing with
    | await key left => exact halfBytes_ofNat _
    | _ => exact none_runs

theorem SyncMode.byte_eq (y : SyncMode) : y.byte = if y = .off then 0 else if y = .rising then 1 else 2 := by
  cases y <;> rfl

theorem RateMode.byte_eq (y : RateMode) : y.byte = if y = .fixed then 0 else 1 := by cases y <;> rfl

/-- Settles O7: each command's results are read off its meaning. -/
theorem readingCommands : Obligations.ReadingCommands := by
  unfold Obligations.ReadingCommands
  refine ⟨fun m s h => ?_, fun m s => ⟨fun h => ?_, fun h => ?_, fun h => ?_, fun h => ?_, fun h => ?_⟩⟩
  · rw [exec_of_ready rfl rfl h]
    rfl
  · rw [exec_of_ready rfl rfl h]
    rfl
  · rw [exec_of_ready rfl rfl h]
    simp only [lineGet, Settings.toBytes, RateMode.byte_eq, SyncMode.byte_eq]
    rfl
  · rw [exec_of_ready rfl rfl h]
    rfl
  · rw [exec_of_ready rfl rfl h]
    simp only [jobStatus, halfBytes_responseTimerValue]
    rfl
  · rw [exec_of_ready rfl rfl h]
    simp only [storeStatus, halfBytes_ofNat]
    rfl

/-! ### ALLOC, FREE and ADOPT -/

/-- Settles O25: in the order of R12's checks. -/
theorem allocTakesTheHead : Obligations.AllocTakesTheHead := by
  unfold Obligations.AllocTakesTheHead
  intro m s h
  rw [exec_of_ready rfl rfl h]
  unfold alloc
  refine ⟨fun hq => ?_, fun hq => ⟨fun hr => ?_, fun hr b rest hb => ?_⟩⟩
  · rw [if_pos hq]; rfl
  · rw [if_neg (by omega), if_pos hr]; rfl
  · rw [if_neg (by omega), if_neg (by omega)]
    simp only [Store.claimHead, hb]
    rfl

theorem bufferArg_of_ge {n : Half} (h : 96 ≤ n.toNat) : bufferArg n = none := dif_neg (by omega)

theorem bufferArg_of_eq {n : Half} {b : BufferId} (h : b.val = n.toNat) : bufferArg n = some b := by
  have hlt : n.toNat < 96 := h ▸ b.isLt
  rw [bufferArg, dif_pos hlt]
  exact congrArg some (Fin.ext h.symm)

/-- Settles O26: by the buffer's state. -/
theorem freeAndAdopt : Obligations.FreeAndAdopt := by
  unfold Obligations.FreeAndAdopt
  refine ⟨fun m n s h => ⟨fun hn => ?_, fun b hb => ?_⟩, fun m n s h => ⟨fun hn => ?_, fun b hb => ?_⟩⟩ <;>
    rw [exec_of_ready rfl rfl h]
  · unfold free
    rw [bufferArg_of_ge hn]
    rfl
  · unfold free
    rw [bufferArg_of_eq hb]
    cases hs : (s.store.buffer b).state with
    | owned o => by_cases ho : o = m <;> simp [hs, ho, refuse]
    | delivered pending holders =>
      cases hm : holders.get m
      · simp [hs, hm, refuse]
      · by_cases he : (pending.isEmpty && (MasterSet.erase holders m).isEmpty) = true <;> simp [hs, hm, he]
    | _ => simp [hs, refuse]
  · unfold adopt
    rw [bufferArg_of_ge hn]
    rfl
  · unfold adopt
    rw [bufferArg_of_eq hb]
    by_cases hd : (s.store.buffer b).state = .delivered MasterSet.empty (MasterSet.singleton m)
    · by_cases hq : (s.ports.get m).settings.quota ≤ s.store.usage m <;> simp [hd, hq, refuse]
    · simp [hd, refuse]

/-! ### SCRUB -/

/-- Words written with zeros are clean (R2). -/
theorem condition_foldl_writeWord (words : List WordNo) (st : Store) (v : WordNo) :
    (words.foldl (fun st w => st.writeWord w []) st).condition v = if v ∈ words then .clean else st.condition v := by
  induction words generalizing st with
  | nil => simp
  | cons w rest ih =>
    rw [List.foldl_cons, ih, st.condition_writeWord_eq]
    by_cases hr : v ∈ rest <;> by_cases hw : v = w <;> simp [hr, hw]

/-- Words written with zeros read 0, and every other byte as before (R2). -/
theorem read_foldl_writeWord (words : List WordNo) {st : Store} (h : Memory.wf st.mem = true) (a : Nat) :
    Memory.read (words.foldl (fun st w => st.writeWord w []) st).mem a =
      if ∃ w ∈ words, 8 * w.val ≤ a ∧ a < 8 * w.val + 8 then 0 else Memory.read st.mem a := by
  induction words generalizing st with
  | nil => simp
  | cons w rest ih =>
    rw [List.foldl_cons, ih (Store.writeWord_wf h ..), Store.read_writeWord h]
    by_cases hr : ∃ w ∈ rest, 8 * w.val ≤ a ∧ a < 8 * w.val + 8
    · rw [if_pos hr, if_pos]
      obtain ⟨v, hv, ha⟩ := hr
      exact ⟨v, List.mem_cons_of_mem _ hv, ha⟩
    · rw [if_neg hr]
      simp only [List.exists_mem_cons_iff, hr, or_false, List.getD_nil]

theorem mem_wordsOf_all {b : BufferId} {w : WordNo} : w ∈ wordsOf b 0 31 ↔ bufferOf w = b := by
  constructor
  · exact bufferOf_of_mem_wordsOf
  · rintro rfl
    refine List.mem_map.mpr ⟨w.val % 32, List.mem_range.mpr (by omega), Fin.ext ?_⟩
    simp only [wordOf, bufferOf]
    omega

theorem Store.condition_zeroBuffer (st : Store) (b : BufferId) (w : WordNo) :
    (st.zeroBuffer b).condition w = if bufferOf w = b then .clean else st.condition w := by
  rw [st.zeroBuffer_eq_foldl, condition_foldl_writeWord]
  simp only [mem_wordsOf_all]

theorem Store.read_zeroBuffer {st : Store} (h : Memory.wf st.mem = true) (b : BufferId) (a : Nat) :
    Memory.read (st.zeroBuffer b).mem a =
      if 256 * b.val ≤ a ∧ a < 256 * b.val + 256 then 0 else Memory.read st.mem a := by
  have hiff : (∃ w ∈ wordsOf b 0 31, 8 * w.val ≤ a ∧ a < 8 * w.val + 8) ↔ 256 * b.val ≤ a ∧ a < 256 * b.val + 256 := by
    constructor
    · rintro ⟨w, hw, h1, h2⟩
      obtain rfl := mem_wordsOf_all.mp hw
      simp only [bufferOf]
      omega
    · rintro ⟨h1, h2⟩
      have hb := b.isLt
      refine ⟨⟨a / 8, by omega⟩, mem_wordsOf_all.mpr (Fin.ext ?_), by simp only; omega, by simp only; omega⟩
      simp only [bufferOf]
      omega
  rw [st.zeroBuffer_eq_foldl, read_foldl_writeWord _ h]
  simp only [hiff]

theorem Store.scrub_bytes (st : Store) (b : BufferId) :
    (st.scrub b).mem = (st.zeroBuffer b).mem ∧ (st.scrub b).upsets = (st.zeroBuffer b).upsets := by
  unfold Store.scrub
  generalize st.zeroBuffer b = z
  exact ⟨rfl, rfl⟩

theorem Store.patrolIndex_scrub (st : Store) (b : BufferId) : (st.scrub b).patrolIndex = st.patrolIndex := by
  have hz : (st.zeroBuffer b).patrolIndex = st.patrolIndex := by rw [st.zeroBuffer_eq]
  unfold Store.scrub
  generalize st.zeroBuffer b = z at hz
  exact hz

theorem Store.condition_congr {st st' : Store} (h : st'.upsets = st.upsets) (w : WordNo) : st'.condition w = st.condition w := by
  unfold Store.condition Store.upsetAt
  rw [h]

/-- The store after a SCRUB: of an OWNED buffer, or of a QUARANTINED one, which leaves use clean (R18). -/
def Store.afterScrub (st : Store) (b : BufferId) : Store :=
  if (st.buffer b).state = .quarantined then (st.scrub b).leaveUse b else st.scrub b

theorem Store.damaged_scrub (st : Store) (b : BufferId) : ((st.scrub b).buffer b).damaged = false := by
  rw [st.buffer_scrub, if_pos rfl]

theorem Store.afterScrub_bytes (st : Store) (b : BufferId) :
    (st.afterScrub b).mem = (st.zeroBuffer b).mem ∧ (st.afterScrub b).upsets = (st.zeroBuffer b).upsets ∧
      (st.afterScrub b).damagedWords = (st.damagedWords.filter fun w => bufferOf w ≠ b) ∧
      (st.afterScrub b).patrolIndex = st.patrolIndex := by
  obtain ⟨hm, hu⟩ := st.scrub_bytes b
  unfold Store.afterScrub
  split
  · rw [leaveUse_mem, leaveUse_upsets, leaveUse_damagedWords, leaveUse_patrolIndex]
    exact ⟨hm, hu, st.damagedWords_scrub b, st.patrolIndex_scrub b⟩
  · exact ⟨hm, hu, st.damagedWords_scrub b, st.patrolIndex_scrub b⟩

theorem Store.afterScrub_buffer_self (st : Store) (b : BufferId) : (st.afterScrub b).buffer b =
    ⟨if (st.buffer b).state = .quarantined then .free else (st.buffer b).state, false⟩ := by
  unfold Store.afterScrub
  split
  · rw [Store.buffer_leaveUse_self, st.damaged_scrub]
    rfl
  · rw [st.buffer_scrub, if_pos rfl]

theorem Store.afterScrub_buffer_of_ne (st : Store) {b c : BufferId} (h : c ≠ b) : (st.afterScrub b).buffer c = st.buffer c := by
  unfold Store.afterScrub
  split
  · rw [Store.leaveUse_buffer_of_ne _ h, st.buffer_scrub, if_neg h]
  · rw [st.buffer_scrub, if_neg h]

theorem Store.afterScrub_freeQueue (st : Store) (b : BufferId) : (st.afterScrub b).freeQueue =
    if (st.buffer b).state = .quarantined then st.freeQueue ++ [b] else st.freeQueue := by
  unfold Store.afterScrub
  split
  · rw [Store.freeQueue_leaveUse, st.damaged_scrub, st.freeQueue_scrub]
    rfl
  · exact st.freeQueue_scrub b

/-- A SCRUB of a buffer that its master may scrub (R18). -/
theorem scrub_of_scrubbable {m : Master} {n : Half} {s : State} {b : BufferId} (hb : b.val = n.toNat)
    (h : (s.store.buffer b).state = .owned m ∨ (s.store.buffer b).state = .quarantined) :
    scrub m n s = ⟨.ok, [], { s with store := s.store.afterScrub b }⟩ := by
  unfold scrub Store.afterScrub
  rw [bufferArg_of_eq hb]
  rcases h with h | h
  · simp only [h, if_true, reduceCtorEq, if_false]
  · simp only [h, if_true]

/-- Settles O30: a scrub writes the buffer's words with zeros, and a QUARANTINED buffer then leaves use undamaged. -/
theorem scrubRestores : Obligations.ScrubRestores := by
  unfold Obligations.ScrubRestores
  intro m n s h
  rw [exec_of_ready rfl rfl h]
  refine ⟨fun hn => ?_, fun b hb => ⟨fun ho hq => ?_, fun ho hw => ?_⟩⟩
  · unfold scrub
    rw [bufferArg_of_ge hn]
    rfl
  · unfold scrub
    rw [bufferArg_of_eq hb]
    cases hs : (s.store.buffer b).state with
    | owned o =>
      have hne : o ≠ m := fun e => ho (by rw [hs, e])
      simp [hs, hne, refuse]
    | quarantined => exact absurd hs hq
    | _ => simp [hs, refuse]
  · obtain ⟨hmem, hups, hdw, hpi⟩ := s.store.afterScrub_bytes b
    rw [scrub_of_scrubbable hb ho]
    refine ⟨_, rfl, fun a => ?_, fun w => ?_, hdw, s.store.afterScrub_buffer_self b, fun c hc => s.store.afterScrub_buffer_of_ne hc,
      s.store.afterScrub_freeQueue b, rfl, hpi⟩
    · show Memory.read (s.store.afterScrub b).mem a = _
      rw [hmem]
      exact Store.read_zeroBuffer hw b a
    · exact (Store.condition_congr hups w).trans (s.store.condition_zeroBuffer b w)

end Sys2Proof.Machine
end

section
/-!
PROOFS. READ (R17): what several reads through correction return and leave, and the bytes of a span.
-/

namespace Sys2Proof.Machine

/-! ### What findings can change -/

/-- Beside findings nothing has changed: conditions, records, the damaged-word table, latched flags, counters and notices may differ. -/
def OnlyFindings (s t : State) : Prop :=
  ∃ upsets buffers damagedWords flags counters notices, t = { s with
    store := { s.store with upsets := upsets, buffers := buffers, damagedWords := damagedWords },
    line := { s.line with flags := flags }, counters := counters, notices := notices }

theorem OnlyFindings.refl (s : State) : OnlyFindings s s := ⟨_, _, _, _, _, _, rfl⟩

theorem OnlyFindings.trans {s t u : State} (h : OnlyFindings s t) (k : OnlyFindings t u) : OnlyFindings s u := by
  obtain ⟨_, _, _, _, _, _, rfl⟩ := h
  obtain ⟨_, _, _, _, _, _, rfl⟩ := k
  exact ⟨_, _, _, _, _, _, rfl⟩

theorem OnlyFindings.eq {s t : State} (h : OnlyFindings s t) : t = { s with
    store := { s.store with
      upsets := t.store.upsets, buffers := t.store.buffers, damagedWords := t.store.damagedWords },
    line := { s.line with flags := t.line.flags }, counters := t.counters, notices := t.notices } := by
  obtain ⟨_, _, _, _, _, _, rfl⟩ := h
  rfl

/-- Beside correctable findings nothing has changed: only conditions and counters may differ. -/
def OnlyCorrections (s t : State) : Prop :=
  ∃ upsets counters, t = { s with store := { s.store with upsets := upsets }, counters := counters }

theorem OnlyCorrections.refl (s : State) : OnlyCorrections s s := ⟨_, _, rfl⟩

theorem OnlyCorrections.trans {s t u : State} (h : OnlyCorrections s t) (k : OnlyCorrections t u) : OnlyCorrections s u := by
  obtain ⟨_, _, rfl⟩ := h
  obtain ⟨_, _, rfl⟩ := k
  exact ⟨_, _, rfl⟩

theorem OnlyCorrections.eq {s t : State} (h : OnlyCorrections s t) :
    t = { s with store := { s.store with upsets := t.store.upsets }, counters := t.counters } := by
  obtain ⟨_, _, rfl⟩ := h
  rfl

/-! ### One read in a buffer in use -/

/-- The bytes that a read through correction of a word returns (R3). -/
def Store.given (st : Store) (w : WordNo) : List Byte := if st.condition w = .doubleUpset then st.standing w else st.written w

/-- A word's condition after a read through correction in a buffer in use (R20, R22). -/
def WordCondition.afterRead (c : WordCondition) : WordCondition := if c = .doubleUpset then .doubleUpset else .clean

theorem readWord_bytes (w : WordNo) (s : State) : (readWord w s).1 = s.store.given w := by
  unfold Store.given
  cases h : s.store.condition w with
  | clean => rw [readWord_clean h]; rfl
  | singleUpset => rw [readWord_single h]; rfl
  | doubleUpset => rw [readWord_double h]; rfl

theorem Store.length_given (st : Store) (w : WordNo) : (st.given w).length = 8 := by
  unfold Store.given
  split
  · exact st.length_standing w
  · exact st.length_written w

theorem readWord_onlyCorrections {w : WordNo} {s : State} (hd : s.store.condition w ≠ .doubleUpset) : OnlyCorrections s (readWord w s).2 := by
  cases h : s.store.condition w with
  | clean => rw [readWord_clean h]; exact .refl s
  | singleUpset => rw [readWord_single h]; exact ⟨_, _, rfl⟩
  | doubleUpset => exact absurd h hd

section

variable {w : WordNo} {s : State} (hf : (s.store.buffer (bufferOf w)).state ≠ .free)

include hf

theorem readWord_onlyFindings : OnlyFindings s (readWord w s).2 := by
  cases h : s.store.condition w with
  | clean => rw [readWord_clean h]; exact .refl s
  | singleUpset => rw [readWord_single h]; exact ⟨_, _, _, _, _, _, rfl⟩
  | doubleUpset =>
    rw [readWord_double h]
    exact ⟨_, _, _, _, _, _, uncorrectableFinding_eq hf⟩

theorem readWord_upsetAt_of_ne {v : WordNo} (hv : v ≠ w) : (readWord w s).2.store.upsetAt v = s.store.upsetAt v := by
  cases h : s.store.condition w with
  | clean => rw [readWord_clean h]
  | singleUpset => rw [readWord_single h]; exact s.store.upsetAt_clearUpset_of_ne hv
  | doubleUpset => rw [readWord_double h, uncorrectableFinding_eq hf]; rfl

theorem readWord_condition_self : (readWord w s).2.store.condition w = (s.store.condition w).afterRead := by
  cases h : s.store.condition w with
  | clean => rw [readWord_clean h]; exact h
  | singleUpset => rw [readWord_single h]; exact (s.store.condition_clearUpset w w).trans (if_pos rfl)
  | doubleUpset => rw [readWord_double h]; exact (uncorrectableFinding_condition hf w).trans h

/-- A read through correction damages its word's buffer where the word is double upset, and changes no other record (R22). -/
theorem readWord_buffer (c : BufferId) : (readWord w s).2.store.buffer c =
    if c = bufferOf w then ⟨(s.store.buffer c).state, (s.store.buffer c).damaged || s.store.condition w = .doubleUpset⟩
    else s.store.buffer c := by
  cases h : s.store.condition w with
  | clean => rw [readWord_clean h]; simp
  | singleUpset =>
    rw [readWord_single h]
    show s.store.buffer c = _
    simp
  | doubleUpset => rw [readWord_double h, uncorrectableFinding_buffer hf]; simp

theorem readWord_given_of_ne {v : WordNo} (hv : v ≠ w) : (readWord w s).2.store.given v = s.store.given v := by
  have hu := readWord_upsetAt_of_ne hf hv
  have hm : (readWord w s).2.store.mem = s.store.mem := by rw [(readWord_onlyFindings hf).eq]
  unfold Store.given Store.condition Store.standing Store.written
  rw [hu, hm]

end

/-! ### Several reads in one buffer in use -/

section

variable {b : BufferId} {ws : List WordNo} {s : State} (hb : ∀ w ∈ ws, bufferOf w = b) (hf : (s.store.buffer b).state ≠ .free)

include hb hf

theorem readWords_onlyFindings : OnlyFindings s (readWords ws s).2 := by
  induction ws generalizing s with
  | nil => exact .refl s
  | cons w rest ih =>
    have hw : (s.store.buffer (bufferOf w)).state ≠ .free := by rwa [hb w (List.mem_cons_self ..)]
    exact (readWord_onlyFindings hw).trans
      (ih (fun v hv => hb v (List.mem_cons_of_mem _ hv)) (by rwa [readWord_buffer_state b hw]))

/-- Words read one after the other return what each gives at the start, for no read changes what another word gives (R3, R4). -/
theorem readWords_bytes (hn : ws.Nodup) : (readWords ws s).1 = ws.flatMap s.store.given := by
  induction ws generalizing s with
  | nil => rfl
  | cons w rest ih =>
    have hw : (s.store.buffer (bufferOf w)).state ≠ .free := by rwa [hb w (List.mem_cons_self ..)]
    obtain ⟨hnot, hn⟩ := List.nodup_cons.mp hn
    have hrest := ih (s := (readWord w s).2) (fun v hv => hb v (List.mem_cons_of_mem _ hv))
      (by rwa [readWord_buffer_state b hw]) hn
    have same : rest.flatMap (readWord w s).2.store.given = rest.flatMap s.store.given :=
      List.flatMap_congr fun v hv => readWord_given_of_ne hw (by rintro rfl; exact hnot hv)
    show (readWord w s).1 ++ (readWords rest (readWord w s).2).1 = _
    rw [List.flatMap_cons, readWord_bytes, hrest, same]

theorem readWords_condition (hn : ws.Nodup) (v : WordNo) : (readWords ws s).2.store.condition v =
    if v ∈ ws then (s.store.condition v).afterRead else s.store.condition v := by
  induction ws generalizing s with
  | nil => simp [readWords]
  | cons w rest ih =>
    have hw : (s.store.buffer (bufferOf w)).state ≠ .free := by rwa [hb w (List.mem_cons_self ..)]
    obtain ⟨hnot, hn⟩ := List.nodup_cons.mp hn
    refine (ih (s := (readWord w s).2) (fun v hv => hb v (List.mem_cons_of_mem _ hv))
      (by rwa [readWord_buffer_state b hw]) hn).trans ?_
    by_cases hv : v = w
    · subst hv
      simp [hnot, readWord_condition_self hw]
    · simp [hv, readWord_condition_of_ne hv hw]

theorem readWords_buffer (hn : ws.Nodup) (c : BufferId) : (readWords ws s).2.store.buffer c =
    if c = b then ⟨(s.store.buffer c).state, (s.store.buffer c).damaged || ws.any fun w => s.store.condition w = .doubleUpset⟩
    else s.store.buffer c := by
  induction ws generalizing s with
  | nil => simp [readWords]
  | cons w rest ih =>
    have hwb := hb w (List.mem_cons_self ..)
    have hw : (s.store.buffer (bufferOf w)).state ≠ .free := by rwa [hwb]
    obtain ⟨hnot, hn⟩ := List.nodup_cons.mp hn
    refine (ih (s := (readWord w s).2) (fun v hv => hb v (List.mem_cons_of_mem _ hv))
      (by rwa [readWord_buffer_state b hw]) hn).trans ?_
    have same : (rest.any fun v => decide ((readWord w s).2.store.condition v = .doubleUpset)) =
        rest.any fun v => decide (s.store.condition v = .doubleUpset) := by
      rw [Bool.eq_iff_iff, List.any_eq_true, List.any_eq_true]
      refine exists_congr fun v => and_congr_right fun hv => ?_
      rw [readWord_condition_of_ne (by rintro rfl; exact hnot hv) hw]
    rw [same, readWord_buffer hw, hwb, List.any_cons]
    split
    · simp only [Bool.or_assoc]
    · rfl

theorem readWords_onlyCorrections (hn : ws.Nodup) (hd : ∀ w ∈ ws, s.store.condition w ≠ .doubleUpset) :
    OnlyCorrections s (readWords ws s).2 := by
  induction ws generalizing s with
  | nil => exact .refl s
  | cons w rest ih =>
    have hw : (s.store.buffer (bufferOf w)).state ≠ .free := by rwa [hb w (List.mem_cons_self ..)]
    obtain ⟨hnot, hn⟩ := List.nodup_cons.mp hn
    refine (readWord_onlyCorrections (hd w (List.mem_cons_self ..))).trans
      (ih (fun v hv => hb v (List.mem_cons_of_mem _ hv)) (by rwa [readWord_buffer_state b hw]) hn fun v hv => ?_)
    rw [readWord_condition_of_ne (by rintro rfl; exact hnot hv) hw]
    exact hd v (List.mem_cons_of_mem _ hv)

end

/-! ### The words and the bytes of a span -/

theorem spanOk_iff {offset count : Half} :
    spanOk offset count = true ↔ 1 ≤ count.toNat ∧ count.toNat ≤ 64 ∧ offset.toNat + count.toNat ≤ 256 := by
  simp [spanOk, and_assoc]

theorem mem_wordsOf {b : BufferId} {first last : Nat} {w : WordNo} (hl : last < 32) :
    w ∈ wordsOf b first last ↔ 32 * b.val + first ≤ w.val ∧ w.val ≤ 32 * b.val + last := by
  unfold wordsOf
  rw [List.mem_map]
  constructor
  · rintro ⟨i, hi, rfl⟩
    have hi := List.mem_range.mp hi
    rw [wordOf_val (by omega)]
    omega
  · rintro ⟨h1, h2⟩
    refine ⟨w.val - (32 * b.val + first), List.mem_range.mpr (by omega), Fin.ext ?_⟩
    rw [wordOf_val (by omega)]
    omega

theorem wordOf_mem_wordsOf {b : BufferId} {first last k : Nat} (hl : last < 32) (h1 : first ≤ k) (h2 : k ≤ last) :
    wordOf b k ∈ wordsOf b first last := by
  rw [mem_wordsOf hl, wordOf_val (by omega)]
  omega

theorem wordOf_injective {b : BufferId} {j k : Nat} (hj : j < 32) (hk : k < 32) (h : wordOf b j = wordOf b k) : j = k := by
  have hv := congrArg Fin.val h
  rw [wordOf_val hj, wordOf_val hk] at hv
  omega

theorem nodup_wordsOf {b : BufferId} {first last : Nat} (hl : last < 32) : (wordsOf b first last).Nodup := by
  refine List.Nodup.map_on (fun i hi j hj h => ?_) List.nodup_range
  have hi := List.mem_range.mp hi
  have hj := List.mem_range.mp hj
  have := wordOf_injective (by omega) (by omega) h
  omega

/-- A property of some word of a span, said over the word indices of the whole buffer. -/
theorem any_wordsOf {b : BufferId} {first last : Nat} (hl : last < 32) (p : WordNo → Bool) :
    (wordsOf b first last).any p = (List.range 32).any fun k => decide (first ≤ k ∧ k ≤ last) && p (wordOf b k) := by
  rw [Bool.eq_iff_iff, List.any_eq_true, List.any_eq_true]
  constructor
  · rintro ⟨w, hw, hp⟩
    obtain ⟨h1, h2⟩ := (mem_wordsOf hl).mp hw
    have hk : wordOf b (w.val - 32 * b.val) = w := Fin.ext (by rw [wordOf_val (by omega)]; omega)
    refine ⟨w.val - 32 * b.val, List.mem_range.mpr (by omega), ?_⟩
    rw [hk, hp, Bool.and_true, decide_eq_true_eq]
    omega
  · rintro ⟨k, -, hk⟩
    rw [Bool.and_eq_true, decide_eq_true_eq] at hk
    obtain ⟨⟨h1, h2⟩, hp⟩ := hk
    exact ⟨wordOf b k, wordOf_mem_wordsOf hl h1 h2, hp⟩

/-- Blocks of eight bytes joined, byte by byte. -/
theorem flatMap_range_eight (n : Nat) (f : Nat → List Byte) (hf : ∀ i, (f i).length = 8) :
    (List.range n).flatMap f = (List.range (8 * n)).map fun j => (f (j / 8)).getD (j % 8) 0 := by
  induction n with
  | zero => rfl
  | succ n ih =>
    rw [List.range_succ, List.flatMap_append, ih, Nat.mul_succ, List.range_add, List.map_append, List.flatMap_singleton]
    congr 1
    refine List.ext_getElem (by simp [hf]) fun i h1 h2 => ?_
    have hi : i < 8 := by rwa [hf] at h1
    simp only [List.map_map, List.getElem_map, List.getElem_range, Function.comp_apply]
    rw [show (8 * n + i) / 8 = n by omega, show (8 * n + i) % 8 = i by omega, List.getD_eq_getElem _ _ h1]

/-- The byte at an offset of a buffer that a read through correction returns (R17). -/
def Store.givenByte (st : Store) (b : BufferId) (x : Nat) : Byte := (st.given (wordOf b (x / 8))).getD (x % 8) 0

theorem Store.givenByte_eq (st : Store) {b : BufferId} {x : Nat} (hx : x < 256) : st.givenByte b x =
    if st.condition (wordOf b (x / 8)) = .doubleUpset then (st.standing (wordOf b (x / 8))).getD (x % 8) 0
    else Memory.read st.mem (256 * b.val + x) := by
  unfold Store.givenByte Store.given
  split
  · rfl
  · have hm : x % 8 < 8 := Nat.mod_lt _ (by omega)
    simp only [Store.written, List.getD, List.getElem?_map, List.getElem?_range hm, Option.map_some, Option.getD_some]
    rw [wordOf_val (by omega)]
    congr 1
    omega

/-- The bytes of a span, cut out of those of its words (R4, R17). -/
theorem span_bytes (st : Store) (b : BufferId) {offset count : Nat} (hc : 1 ≤ count) :
    (((wordsOf b (offset / 8) ((offset + count - 1) / 8)).flatMap st.given).drop (offset % 8)).take count =
      (List.range count).map fun i => st.givenByte b (offset + i) := by
  unfold wordsOf
  rw [List.flatMap_map, flatMap_range_eight _ _ fun i => st.length_given _]
  refine List.ext_getElem ?_ fun i h1 h2 => ?_
  · simp only [List.length_take, List.length_drop, List.length_map, List.length_range]
    omega
  · simp only [List.getElem_take, List.getElem_drop, List.getElem_map, List.getElem_range]
    unfold Store.givenByte
    rw [show (offset + i) / 8 = offset / 8 + (offset % 8 + i) / 8 by omega, show (offset + i) % 8 = (offset % 8 + i) % 8 by omega]

/-! ### READ -/

theorem readableBy_iff {v : BufferState} {m : Master} : v.readableBy m = true ↔ v = .owned m ∨ (∃ tag, v = .inJob m tag) ∨
    ∃ pending holders, v = .delivered pending holders ∧ holders.get m = true := by
  cases v <;> simp [BufferState.readableBy]

/-- A READ that passes the checks of R17. -/
theorem read_of_readable {m : Master} {n offset count : Half} {s : State} {b : BufferId} (hb : b.val = n.toNat)
    (hs : spanOk offset count = true) (hr : (s.store.buffer b).state.readableBy m = true) :
    read m n offset count s =
      ⟨if ((readWords (wordsOf b (offset.toNat / 8) ((offset.toNat + count.toNat - 1) / 8)) s).2.store.buffer b).damaged
        then .damaged else .ok,
        ((readWords (wordsOf b (offset.toNat / 8) ((offset.toNat + count.toNat - 1) / 8)) s).1.drop (offset.toNat % 8)).take
          count.toNat,
        (readWords (wordsOf b (offset.toNat / 8) ((offset.toNat + count.toNat - 1) / 8)) s).2⟩ := by
  unfold read
  rw [bufferArg_of_eq hb]
  simp only [hs, hr, Bool.not_true, Bool.false_eq_true, if_false, spanWords_wordsOf]

theorem read_refused {m : Master} {n offset count : Half} {s : State} :
    (96 ≤ n.toNat → read m n offset count s = refuse .badBuffer s) ∧ ∀ b : BufferId, b.val = n.toNat →
      (spanOk offset count = false → read m n offset count s = refuse .badArg s) ∧
      (spanOk offset count = true → (s.store.buffer b).state.readableBy m = false →
        read m n offset count s = refuse .notYours s) := by
  unfold read
  refine ⟨fun hn => ?_, fun b hb => ?_⟩
  · rw [bufferArg_of_ge hn]
  · rw [bufferArg_of_eq hb]
    refine ⟨fun hs => ?_, fun hs hr => ?_⟩
    · simp only [hs, Bool.not_false, if_true]
    · simp only [hs, hr, Bool.not_true, Bool.not_false, Bool.false_eq_true, if_false, if_true]

/-- Settles O29: the words of the span are read one after the other, each giving what it gave at the start. -/
theorem readReturnsTheBytes : Obligations.ReadReturnsTheBytes := by
  unfold Obligations.ReadReturnsTheBytes
  intro m n offset count s h spans
  rw [exec_of_ready rfl rfl h]
  obtain ⟨badBuffer, refused⟩ := read_refused (m := m) (n := n) (offset := offset) (count := count) (s := s)
  refine ⟨fun hn => by rw [badBuffer hn]; rfl, fun b hb => ?_⟩
  intro readable
  refine ⟨fun hs => ?_, fun hs hr => ?_, fun hs hr => ?_⟩
  · rw [(refused b hb).1 (Bool.eq_false_iff.mpr fun e => hs (spanOk_iff.mp e))]
    rfl
  · rw [(refused b hb).2 (spanOk_iff.mpr hs) (Bool.eq_false_iff.mpr fun e => hr (readableBy_iff.mp e))]
    rfl
  · intro first last found byte
    rw [read_of_readable hb (spanOk_iff.mpr hs) (readableBy_iff.mpr hr)]
    obtain ⟨hc1, hc2, hoc⟩ := hs
    have hlast : last < 32 := by simp only [last]; omega
    have inBuffer : ∀ w ∈ wordsOf b first last, bufferOf w = b := fun w hw => bufferOf_of_mem_wordsOf hw
    have inUse : (s.store.buffer b).state ≠ .free := fun e => by
      have hr := readableBy_iff.mpr hr
      rw [e] at hr
      cases hr
    have distinct : (wordsOf b first last).Nodup := nodup_wordsOf hlast
    have hfound : ((wordsOf b first last).any fun w => decide (s.store.condition w = .doubleUpset)) = found :=
      any_wordsOf hlast _
    have hbuffer := readWords_buffer inBuffer inUse distinct
    have hcond := readWords_condition inBuffer inUse distinct
    rw [hfound] at hbuffer
    have hself := (hbuffer b).trans (if_pos rfl)
    refine ⟨_, ?_, rfl, fun k h1 h2 => ?_, fun w hw => ?_, hself, fun c hc => (hbuffer c).trans (if_neg hc), fun hno => ?_,
      (readWords_onlyFindings inBuffer inUse).eq⟩
    · have hbytes : (List.range count.toNat).map (fun i => s.store.givenByte b (offset.toNat + i)) =
          (List.range count.toNat).map fun i => byte (offset.toNat + i) := by
        refine List.map_congr_left fun i hi => s.store.givenByte_eq ?_
        have := List.mem_range.mp hi
        omega
      rw [hself, readWords_bytes inBuffer inUse distinct, span_bytes s.store b hc1, hbytes]
    · exact (hcond _).trans (if_pos (wordOf_mem_wordsOf hlast h1 h2))
    · exact (hcond w).trans (if_neg fun hm => hw ((mem_wordsOf hlast).mp hm))
    · rw [← hfound, List.any_eq_false] at hno
      exact (readWords_onlyCorrections inBuffer inUse distinct fun w hw => by simpa using hno w hw).eq

end Sys2Proof.Machine
end

section
/-!
PROOFS. WRITE (R15, R16): word by word, the bytes of the span stand at their offsets except in a word that is abandoned.
-/

namespace Sys2Proof.Machine

/-! ### The bytes of one word -/

theorem getD_mergeWord (k offset : Nat) (data old : List Byte) {i : Nat} (hi : i < 8) :
    (mergeWord k offset data old).getD i 0 =
      if offset ≤ 8 * k + i ∧ 8 * k + i < offset + data.length then data.getD (8 * k + i - offset) 0 else old.getD i 0 := by
  simp only [mergeWord, List.getD, List.getElem?_map, List.getElem?_range hi, Option.map_some, Option.getD_some]

theorem coversWord_iff {k offset count : Nat} : coversWord k offset count = true ↔ offset ≤ 8 * k ∧ 8 * k + 8 ≤ offset + count := by
  simp [coversWord]

/-- Whether a WRITE abandons a word of its span: one that it does not cover whole and that is double upset (R16). -/
def Store.abandons (st : Store) (b : BufferId) (offset count k : Nat) : Bool :=
  decide (st.condition (wordOf b k) = .doubleUpset) && !coversWord k offset count

/-- The address `a` lies in the span of `count` bytes from `offset` of a buffer. -/
def InSpan (b : BufferId) (offset count a : Nat) : Prop := 256 * b.val + offset ≤ a ∧ a < 256 * b.val + offset + count

theorem abandons_eq_true {st : Store} {b : BufferId} {offset count k : Nat} :
    st.abandons b offset count k = true ↔ st.condition (wordOf b k) = .doubleUpset ∧ coversWord k offset count = false := by
  simp [Store.abandons]

theorem writeOneWord_of_abandons {b : BufferId} {k offset : Nat} {data : List Byte} {s : State}
    (h : s.store.abandons b offset data.length k = true) : writeOneWord b k offset data s = (readWord (wordOf b k) s).2 := by
  obtain ⟨hd, hc⟩ := abandons_eq_true.mp h
  unfold writeOneWord
  simp only [hc, hd, Bool.false_eq_true, if_false]

/-- A word that is not abandoned is written over what it held: the bytes of the span at their offsets, the others as they were (R15,
R16). -/
theorem writeOneWord_of_written {b : BufferId} {k offset : Nat} {data : List Byte} {s : State}
    (hf : (s.store.buffer b).state ≠ .free) (h : s.store.abandons b offset data.length k = false) :
    ∃ (u : State) (old : List Byte), OnlyFindings s u ∧
      (∀ v, v ≠ wordOf b k → u.store.condition v = s.store.condition v) ∧
      writeOneWord b k offset data s = { u with store := u.store.writeWord (wordOf b k) (mergeWord k offset data old) } ∧
      ∀ i, i < 8 → ¬(offset ≤ 8 * k + i ∧ 8 * k + i < offset + data.length) →
        old.getD i 0 = Memory.read s.store.mem (8 * (wordOf b k).val + i) := by
  have hf : (s.store.buffer (bufferOf (wordOf b k))).state ≠ .free := by rwa [bufferOf_wordOf]
  cases hc : coversWord k offset data.length with
  | true =>
    refine ⟨s, [], .refl s, fun _ _ => rfl, ?_, fun i hi hn => ?_⟩
    · unfold writeOneWord
      simp only [hc, if_true]
    · have := coversWord_iff.mp hc
      omega
  | false =>
    have hd : s.store.condition (wordOf b k) ≠ .doubleUpset := fun e => by
      rw [abandons_eq_true.mpr ⟨e, hc⟩] at h
      cases h
    refine ⟨(readWord (wordOf b k) s).2, (readWord (wordOf b k) s).1, readWord_onlyFindings hf,
      fun v hv => readWord_condition_of_ne hv hf, ?_, fun i hi _ => ?_⟩
    · unfold writeOneWord
      simp only [hc, Bool.false_eq_true, if_false]
    · rw [readWord_bytes, Store.given, if_neg hd]
      simp only [Store.written, List.getD, List.getElem?_map, List.getElem?_range hi, Option.map_some, Option.getD_some]

theorem writeOneWord_wf {b : BufferId} {k offset : Nat} {data : List Byte} {s : State} (hf : (s.store.buffer b).state ≠ .free)
    (hw : Memory.wf s.store.mem = true) : Memory.wf (writeOneWord b k offset data s).store.mem = true := by
  cases ha : s.store.abandons b offset data.length k with
  | true =>
    rw [writeOneWord_of_abandons ha, (readWord_onlyFindings (by rwa [bufferOf_wordOf])).eq]
    exact hw
  | false =>
    obtain ⟨u, old, hu, -, he, -⟩ := writeOneWord_of_written hf ha
    rw [he]
    refine Store.writeWord_wf ?_ ..
    rw [hu.eq]
    exact hw

section

variable {b : BufferId} {k offset : Nat} {data : List Byte} {s : State}
  (hf : (s.store.buffer b).state ≠ .free)

include hf

theorem writeOneWord_condition (v : WordNo) : (writeOneWord b k offset data s).store.condition v =
    if v = wordOf b k then (if s.store.abandons b offset data.length k then .doubleUpset else .clean)
    else s.store.condition v := by
  have hf' : (s.store.buffer (bufferOf (wordOf b k))).state ≠ .free := by rwa [bufferOf_wordOf]
  cases ha : s.store.abandons b offset data.length k with
  | true =>
    rw [writeOneWord_of_abandons ha]
    obtain ⟨hd, -⟩ := abandons_eq_true.mp ha
    split
    · subst_vars
      rw [readWord_condition_self hf', hd]
      rfl
    · exact readWord_condition_of_ne ‹_› hf'
  | false =>
    obtain ⟨u, old, -, hcond, he, -⟩ := writeOneWord_of_written hf ha
    rw [he]
    refine (u.store.condition_writeWord_eq ..).trans ?_
    split
    · rfl
    · exact hcond v ‹_›

theorem read_writeOneWord (hk : k < 32) (hw : Memory.wf s.store.mem = true) (a : Nat) :
    (InSpan b offset data.length a → (a - 256 * b.val) / 8 = k → s.store.abandons b offset data.length k = false →
      Memory.read (writeOneWord b k offset data s).store.mem a = data.getD (a - (256 * b.val + offset)) 0) ∧
    (¬(InSpan b offset data.length a ∧ (a - 256 * b.val) / 8 = k ∧ s.store.abandons b offset data.length k = false) →
      Memory.read (writeOneWord b k offset data s).store.mem a = Memory.read s.store.mem a) := by
  cases ha : s.store.abandons b offset data.length k with
  | true =>
    refine ⟨fun _ _ e => absurd e (by simp), fun _ => ?_⟩
    rw [writeOneWord_of_abandons ha, (readWord_onlyFindings (by rwa [bufferOf_wordOf])).eq]
  | false =>
    obtain ⟨u, old, hu, -, he, hold⟩ := writeOneWord_of_written hf ha
    have hm : u.store.mem = s.store.mem := by rw [hu.eq]
    have hread : Memory.read (writeOneWord b k offset data s).store.mem a =
        if 8 * (wordOf b k).val ≤ a ∧ a < 8 * (wordOf b k).val + 8 then
          (mergeWord k offset data old).getD (a - 8 * (wordOf b k).val) 0
        else Memory.read s.store.mem a := by
      rw [he, ← hm]
      exact Store.read_writeWord (by rwa [hm]) ..
    have hv := wordOf_val (b := b) hk
    refine ⟨fun hs hka _ => ?_, fun hn => ?_⟩
    · obtain ⟨h1, h2⟩ := hs
      rw [hread, if_pos (by omega), getD_mergeWord _ _ _ _ (by omega), if_pos (by omega)]
      congr 1
      omega
    · rw [hread]
      split
      · rename_i hin
        have hout : ¬(offset ≤ 8 * k + (a - 8 * (wordOf b k).val) ∧ 8 * k + (a - 8 * (wordOf b k).val) < offset + data.length) :=
          fun ho => hn ⟨⟨by omega, by omega⟩, by omega, rfl⟩
        rw [getD_mergeWord _ _ _ _ (by omega), if_neg hout, hold _ (by omega) hout]
        congr 1
        omega
      · rfl

end

/-! ### The words of a span, one after the other -/

theorem abandons_writeOneWord_of_ne {b : BufferId} {j k offset : Nat} {data : List Byte} {s : State} (hj : j < 32) (hk : k < 32)
    (hne : j ≠ k) (hf : (s.store.buffer b).state ≠ .free) :
    (writeOneWord b k offset data s).store.abandons b offset data.length j = s.store.abandons b offset data.length j := by
  unfold Store.abandons
  rw [writeOneWord_condition hf, if_neg fun e => hne (wordOf_injective hj hk e)]

section

variable {b : BufferId} {offset : Nat} {data : List Byte} {ks : List Nat} {s : State} (hl : ∀ k ∈ ks, k < 32) (hn : ks.Nodup)
  (hf : (s.store.buffer b).state ≠ .free)

include hl hn hf

theorem writeWords_condition (v : WordNo) :
    (∀ k ∈ ks, v = wordOf b k → (writeWords b offset data ks s).store.condition v =
      if s.store.abandons b offset data.length k then .doubleUpset else .clean) ∧
    ((∀ k ∈ ks, v ≠ wordOf b k) → (writeWords b offset data ks s).store.condition v = s.store.condition v) := by
  induction ks generalizing s with
  | nil => exact ⟨fun k hk => absurd hk List.not_mem_nil, fun _ => rfl⟩
  | cons k rest ih =>
    obtain ⟨hnot, hn⟩ := List.nodup_cons.mp hn
    have hk := hl k (List.mem_cons_self ..)
    have hrest : ∀ j ∈ rest, j < 32 := fun j hj => hl j (List.mem_cons_of_mem _ hj)
    obtain ⟨hin, hout⟩ := ih (s := writeOneWord b k offset data s) hrest hn (by rwa [writeOneWord_state])
    have hone := writeOneWord_condition (k := k) (offset := offset) (data := data) hf v
    have apart : ∀ j ∈ rest, j ≠ k := fun j hj e => hnot (e ▸ hj)
    refine ⟨fun j hj hv => ?_, fun hv => ?_⟩
    · rcases List.mem_cons.mp hj with rfl | hj
      · refine (hout fun i hi e => apart i hi (wordOf_injective (hrest i hi) hk (e.symm.trans hv))).trans ?_
        rw [hone, if_pos hv]
      · refine (hin j hj hv).trans ?_
        rw [abandons_writeOneWord_of_ne (hrest j hj) hk (apart j hj) hf]
    · refine (hout fun j hj => hv j (List.mem_cons_of_mem _ hj)).trans ?_
      rw [hone, if_neg (hv k (List.mem_cons_self ..))]

theorem read_writeWords (hw : Memory.wf s.store.mem = true) (a : Nat) :
    (InSpan b offset data.length a → (a - 256 * b.val) / 8 ∈ ks →
      s.store.abandons b offset data.length ((a - 256 * b.val) / 8) = false →
      Memory.read (writeWords b offset data ks s).store.mem a = data.getD (a - (256 * b.val + offset)) 0) ∧
    (¬(InSpan b offset data.length a ∧ (a - 256 * b.val) / 8 ∈ ks ∧
        s.store.abandons b offset data.length ((a - 256 * b.val) / 8) = false) →
      Memory.read (writeWords b offset data ks s).store.mem a = Memory.read s.store.mem a) := by
  induction ks generalizing s with
  | nil => exact ⟨fun _ h => absurd h List.not_mem_nil, fun _ => rfl⟩
  | cons k rest ih =>
    obtain ⟨hnot, hn⟩ := List.nodup_cons.mp hn
    have hk := hl k (List.mem_cons_self ..)
    have hrest : ∀ j ∈ rest, j < 32 := fun j hj => hl j (List.mem_cons_of_mem _ hj)
    obtain ⟨hin, hout⟩ := ih (s := writeOneWord b k offset data s) hrest hn (by rwa [writeOneWord_state])
      (writeOneWord_wf hf hw)
    obtain ⟨one_in, one_out⟩ := read_writeOneWord (offset := offset) (data := data) hf hk hw a
    have kept : ∀ j ∈ rest, (writeOneWord b k offset data s).store.abandons b offset data.length j =
        s.store.abandons b offset data.length j := fun j hj =>
      abandons_writeOneWord_of_ne (hrest j hj) hk (fun e => hnot (e ▸ hj)) hf
    refine ⟨fun hs hmem ha => ?_, fun hno => ?_⟩
    · rcases List.mem_cons.mp hmem with hak | hmem
      · refine (hout fun h => hnot (hak ▸ h.2.1)).trans (one_in hs hak ?_)
        rwa [← hak]
      · exact hin hs hmem (by rwa [kept _ hmem])
    · refine (hout fun ⟨hs, hmem, ha⟩ => hno ⟨hs, List.mem_cons_of_mem _ hmem, ?_⟩).trans (one_out fun ⟨hs, hak, ha⟩ => hno ⟨hs, ?_, ?_⟩)
      · rwa [kept _ hmem] at ha
      · rw [hak]
        exact List.mem_cons_self ..
      · rwa [hak]

end

/-! ### WRITE -/

theorem mem_spanWords {offset count k : Nat} (h : 1 ≤ count) :
    k ∈ spanWords offset count ↔ offset / 8 ≤ k ∧ k ≤ (offset + count - 1) / 8 := by
  unfold spanWords
  rw [List.mem_map]
  constructor
  · rintro ⟨i, hi, rfl⟩
    have := List.mem_range.mp hi
    omega
  · intro hk
    exact ⟨k - offset / 8, List.mem_range.mpr (by omega), by omega⟩

theorem nodup_spanWords (offset count : Nat) : (spanWords offset count).Nodup :=
  List.nodup_range.map fun _ _ h => Nat.add_left_cancel h

theorem Ready.write_length {m : Master} {n offset count : Half} {data : List Byte} {s : State}
    (h : Ready m 0x33 (halfBytes n ++ halfBytes offset ++ halfBytes count ++ data) s) (h1 : 1 ≤ count.toNat) (h2 : count.toNat ≤ 64) :
    data.length = count.toNat := by
  obtain ⟨-, ha, -⟩ := h
  unfold awaits at ha
  split at ha
  · cases ha
  · rw [expectedArguments_write, writeDataLength, if_pos ⟨h1, h2⟩] at ha
    simp [length_halfBytes] at ha
    omega

theorem write_refused {m : Master} {n offset count : Half} {data : List Byte} {s : State} :
    (96 ≤ n.toNat → write m n offset count data s = refuse .badBuffer s) ∧ ∀ b : BufferId, b.val = n.toNat →
      (spanOk offset count = false → write m n offset count data s = refuse .badArg s) ∧
      (spanOk offset count = true → (s.store.buffer b).state ≠ .owned m → write m n offset count data s = refuse .notYours s) ∧
      (spanOk offset count = true → s.store.buffer b = ⟨.owned m, true⟩ → write m n offset count data s = refuse .damaged s) := by
  unfold write
  refine ⟨fun hn => ?_, fun b hb => ?_⟩
  · rw [bufferArg_of_ge hn]
  · rw [bufferArg_of_eq hb]
    refine ⟨fun hs => ?_, fun hs ho => ?_, fun hs ho => ?_⟩
    · simp only [hs, Bool.not_false, if_true]
    · simp only [hs, Bool.not_true, Bool.false_eq_true, if_false, ne_eq, ho, not_false_eq_true, if_true]
    · simp only [hs, ho, Bool.not_true, Bool.false_eq_true, if_false, ne_eq, not_true_eq_false, if_true]

theorem write_of_owned {m : Master} {n offset count : Half} {data : List Byte} {s : State} {b : BufferId} (hb : b.val = n.toNat)
    (hs : spanOk offset count = true) (ho : s.store.buffer b = ⟨.owned m, false⟩) :
    write m n offset count data s = ⟨.ok, [], writeWords b offset.toNat data (spanWords offset.toNat count.toNat) s⟩ := by
  unfold write
  rw [bufferArg_of_eq hb]
  simp only [hs, ho, Bool.not_true, Bool.false_eq_true, if_false, ne_eq, not_true_eq_false]

theorem AlikeBesideBytes.of_onlyFindings {s r t : State} (h : OnlyFindings s r) (k : AlikeBesideBytes r t) : t = { s with
    store := { s.store with
      mem := t.store.mem, upsets := t.store.upsets, buffers := t.store.buffers, damagedWords := t.store.damagedWords },
    line := { s.line with flags := t.line.flags }, counters := t.counters, notices := t.notices } := by
  obtain ⟨_, _, _, _, _, _, rfl⟩ := h
  unfold AlikeBesideBytes at k
  generalize t.store.mem = mem at k
  generalize t.store.upsets = upsets at k
  subst k
  rfl

theorem AlikeBesideBytes.of_onlyCorrections {s r t : State} (h : OnlyCorrections s r) (k : AlikeBesideBytes r t) :
    t = { s with store := { s.store with mem := t.store.mem, upsets := t.store.upsets }, counters := t.counters } := by
  obtain ⟨_, _, rfl⟩ := h
  unfold AlikeBesideBytes at k
  generalize t.store.mem = mem at k
  generalize t.store.upsets = upsets at k
  subst k
  rfl

theorem AlikeBesideBytes.buffer {s t : State} (h : AlikeBesideBytes s t) (b : BufferId) : t.store.buffer b = s.store.buffer b := by
  unfold AlikeBesideBytes at h
  generalize t.store.mem = mem at h
  generalize t.store.upsets = upsets at h
  subst h
  rfl

/-- A WRITE of a part of one double-upset word abandons it: what stays is the finding (R16). -/
theorem writeWords_of_one_abandoned {b : BufferId} {offset count : Nat} {data : List Byte} {s : State} (hl : data.length = count)
    (h1 : 1 ≤ count) (h2 : offset % 8 + count ≤ 8) (h3 : count < 8)
    (hd : s.store.condition (wordOf b (offset / 8)) = .doubleUpset) :
    writeWords b offset data (spanWords offset count) s = (readWord (wordOf b (offset / 8)) s).2 := by
  have hspan : spanWords offset count = [offset / 8] := by
    unfold spanWords
    rw [show (offset + count - 1) / 8 + 1 - offset / 8 = 1 by omega]
    rfl
  rw [hspan]
  refine writeOneWord_of_abandons (abandons_eq_true.mpr ⟨hd, Bool.eq_false_iff.mpr fun hc => ?_⟩)
  have := coversWord_iff.mp hc
  omega

/-- The words of a span that a WRITE does not cover whole, read one after the other (R16). -/
def mergedWords (b : BufferId) (offset count : Nat) : List WordNo :=
  ((spanWords offset count).filter fun k => !coversWord k offset count).map (wordOf b)

theorem nodup_mergedWords {b : BufferId} {offset count : Nat} (hl : offset + count ≤ 256) : (mergedWords b offset count).Nodup := by
  have hsub : (mergedWords b offset count).Sublist (wordsOf b (offset / 8) ((offset + count - 1) / 8)) := by
    rw [← spanWords_wordsOf]
    exact List.filter_sublist.map _
  exact hsub.nodup (nodup_wordsOf (by omega))

/-- A WRITE finds a double-upset word among those it writes in part exactly when it abandons one (R16). -/
theorem any_mergedWords {b : BufferId} {offset count : Nat} (hc : 1 ≤ count) (hl : offset + count ≤ 256) (st : Store) : ((mergedWords b offset count).any fun w => decide (st.condition w = .doubleUpset)) =
    (List.range 32).any fun k =>
      decide (offset / 8 ≤ k ∧ k ≤ (offset + count - 1) / 8) && st.abandons b offset count k := by
  rw [Bool.eq_iff_iff, List.any_eq_true, List.any_eq_true]
  constructor
  · rintro ⟨w, hw, hd⟩
    obtain ⟨k, hk, rfl⟩ := List.mem_map.mp hw
    obtain ⟨hk, hcov⟩ := List.mem_filter.mp hk
    have hspan := (mem_spanWords hc).mp hk
    refine ⟨k, List.mem_range.mpr (by omega), ?_⟩
    rw [Bool.and_eq_true, decide_eq_true_eq, abandons_eq_true]
    exact ⟨hspan, by simpa using hd, by simpa using hcov⟩
  · rintro ⟨k, -, hk⟩
    rw [Bool.and_eq_true, decide_eq_true_eq, abandons_eq_true] at hk
    obtain ⟨hspan, hd, hcov⟩ := hk
    exact ⟨wordOf b k, List.mem_map_of_mem (List.mem_filter.mpr ⟨(mem_spanWords hc).mpr hspan, by simp [hcov]⟩), by simp [hd]⟩

theorem bufferOf_of_mem_mergedWords {b : BufferId} {offset count : Nat} {w : WordNo} (h : w ∈ mergedWords b offset count) :
    bufferOf w = b := by
  obtain ⟨k, -, rfl⟩ := List.mem_map.mp h
  exact bufferOf_wordOf ..

/-- The words that a WRITE merges, as O28 lists them. -/
theorem mergedWords_eq (b : BufferId) (offset count : Nat) : mergedWords b offset count =
    ((((List.range ((offset + count - 1) / 8 + 1 - offset / 8)).map fun i => offset / 8 + i).filter
      fun k => !decide (offset ≤ 8 * k ∧ 8 * k + 8 ≤ offset + count)).map (wordOf b)) := by
  unfold mergedWords spanWords coversWord
  simp only [Bool.decide_and]

/-- What a WRITE of an undamaged buffer leaves in every block (R15, R16, R22). -/
theorem writeWords_frame {b : BufferId} {m : Master} {offset : Nat} {data : List Byte} {s : State}
    (ho : s.store.buffer b = ⟨.owned m, false⟩) (hc : 1 ≤ data.length) (hl : offset + data.length ≤ 256) :
    AlikeBesideBytes (readWords (mergedWords b offset data.length) s).2
      (writeWords b offset data (spanWords offset data.length) s) := by
  refine writeWords_alike (o := .owned m) (by simp) offset data _ s s rfl (nodup_spanWords ..) (fun k hk => ?_) (fun _ _ => rfl)
    (by rw [ho])
  have := (mem_spanWords hc).mp hk
  omega

/-- Settles O28: each word of the span is written or abandoned, and the rest is what the reads of the words written in part leave. -/
theorem writeStoresItsBytes : Obligations.WriteStoresItsBytes := by
  unfold Obligations.WriteStoresItsBytes
  refine ⟨fun m n offset count data s h => ?_, fun m n offset count data s b h hw hb h1 h2 hl ho => ?_,
    fun m n offset count data s b h hb h1 h2 h3 hl ho hd => ?_⟩ <;> rw [exec_of_ready rfl rfl h]
  · intro spans
    obtain ⟨badBuffer, refused⟩ := write_refused (m := m) (n := n) (offset := offset) (count := count) (data := data) (s := s)
    refine ⟨fun hn => by rw [badBuffer hn]; rfl, fun b hb => ?_⟩
    obtain ⟨badArg, notYours, damaged⟩ := refused b hb
    refine ⟨fun hs => ?_, fun hs hne => ?_, fun hs hd => ?_⟩
    · rw [badArg (Bool.eq_false_iff.mpr fun e => hs (spanOk_iff.mp e))]; rfl
    · rw [notYours (spanOk_iff.mpr hs) hne]; rfl
    · rw [damaged (spanOk_iff.mpr hs) hd]; rfl
  · have hdata := h.write_length h1 h2
    rw [write_of_owned hb (spanOk_iff.mpr ⟨h1, h2, hl⟩) ho, ← hdata]
    rw [← hdata] at h1 hl
    intro first last covered abandons merged read
    have hread : (readWords (mergedWords b offset.toNat data.length) s).2 = read := by rw [mergedWords_eq]
    have inUse : (s.store.buffer b).state ≠ .free := by rw [ho]; simp
    have small : ∀ k ∈ spanWords offset.toNat data.length, k < 32 := fun k hk => by
      have := (mem_spanWords h1).mp hk
      omega
    have habandons : ∀ k, first ≤ k → k ≤ last → abandons k = s.store.abandons b offset.toNat data.length k := by
      intro k hk1 hk2
      simp [abandons, hk1, hk2, Store.abandons, covered, coversWord]
    have hany : ((mergedWords b offset.toNat data.length).any fun w => decide (s.store.condition w = .doubleUpset)) =
        (List.range 32).any abandons := by
      rw [any_mergedWords h1 hl]
      congr 1
      funext k
      simp only [abandons, covered, Store.abandons, coversWord, Bool.decide_and, Bool.and_assoc, first, last]
    have alike := writeWords_frame ho h1 hl
    have inBuffer : ∀ w ∈ mergedWords b offset.toNat data.length, bufferOf w = b := fun w hw => bufferOf_of_mem_mergedWords hw
    have hbuffer := readWords_buffer inBuffer inUse (nodup_mergedWords hl)
    rw [hany] at hbuffer
    refine ⟨_, rfl, fun a => ?_, fun k hk1 hk2 => ?_, fun w hw' => ?_, ?_, fun c hc => ?_, ?_, fun hno => ?_, ?_⟩
    · obtain ⟨hin, hout⟩ := read_writeWords small (nodup_spanWords ..) inUse hw a
      split
      · rename_i ha
        obtain ⟨ha1, ha2, hab⟩ := ha
        have hk1 : first ≤ (a - 256 * b.val) / 8 := by simp only [first]; omega
        have hk2 : (a - 256 * b.val) / 8 ≤ last := by simp only [last]; omega
        exact hin ⟨ha1, ha2⟩ ((mem_spanWords h1).mpr ⟨hk1, hk2⟩) (by rwa [← habandons _ hk1 hk2])
      · rename_i ha
        refine hout fun ⟨⟨ha1, ha2⟩, hmem, hab⟩ => ha ⟨ha1, ha2, ?_⟩
        obtain ⟨hk1, hk2⟩ := (mem_spanWords h1).mp hmem
        rwa [habandons _ hk1 hk2]
    · rw [habandons k hk1 hk2]
      exact (writeWords_condition small (nodup_spanWords ..) inUse _).1 k ((mem_spanWords h1).mpr ⟨hk1, hk2⟩) rfl
    · refine (writeWords_condition small (nodup_spanWords ..) inUse w).2 fun k hk e => hw' ?_
      obtain ⟨hk1, hk2⟩ := (mem_spanWords h1).mp hk
      rw [e, wordOf_val (small k hk)]
      simp only [first, last]
      omega
    · rw [alike.buffer, hbuffer, if_pos rfl, ho, Bool.false_or]
    · rw [alike.buffer, hbuffer, if_neg hc]
    · rw [← hread]
      exact alike
    · rw [← hany, List.any_eq_false] at hno
      exact AlikeBesideBytes.of_onlyCorrections
        (readWords_onlyCorrections inBuffer inUse (nodup_mergedWords hl) fun w hw => by simpa using hno w hw) alike
    · exact AlikeBesideBytes.of_onlyFindings (readWords_onlyFindings inBuffer inUse) alike
  · have hspan : spanOk offset count = true := spanOk_iff.mpr ⟨h1, by omega, by omega⟩
    rw [write_of_owned hb hspan ho,
      writeWords_of_one_abandoned (h.write_length h1 (by omega)) h1 h2 h3 hd]

end Sys2Proof.Machine
end

section
/-!
PROOFS. PORT RESET (R28, R42, R56, R66, R82, R111, R135, R137, R138, R176): what it leaves of a master whose leaving keeps the line, and
of one whose leaving takes it down.
-/

namespace Sys2Proof.Machine

/-! ### The records after a port reset -/

/-- After a port reset of `m`, no buffer is OWNED by it, IN-JOB of it or DELIVERED to it (R28). -/
theorem BufferRecord.afterReset_not_held (r : BufferRecord) (m : Master) (lineGoes : Bool) :
    (r.afterReset m lineGoes).state ≠ .owned m ∧ (∀ tag, (r.afterReset m lineGoes).state ≠ .inJob m tag) ∧
      ∀ pending holders, (r.afterReset m lineGoes).state = .delivered pending holders →
        pending.get m = false ∧ holders.get m = false := by
  by_cases hg : r.state.goesAtReset m lineGoes = true
  · rw [afterReset_of_goes hg]
    split <;> exact ⟨by simp, by simp, by simp⟩
  · have hg := Bool.eq_false_iff.mpr hg
    rw [(afterReset_of_stays hg).1]
    refine ⟨fun e => ?_, fun tag e => ?_, fun p h e => ?_⟩ <;>
      cases hs : r.state <;> rw [hs] at e hg <;> simp only [BufferState.without, reduceCtorEq] at e
    · cases e
      simp [BufferState.goesAtReset] at hg
    · cases e
      simp [BufferState.goesAtReset] at hg
    · cases e
      simp [MasterSet.get_erase]

/-- The usage of a master that owns no buffer and has none in its jobs (R10). -/
theorem Store.usage_eq_zero {st : Store} {m : Master}
    (h : ∀ b, (st.buffer b).state ≠ .owned m ∧ ∀ tag, (st.buffer b).state ≠ .inJob m tag) : st.usage m = 0 := by
  refine List.length_eq_zero_iff.mpr (List.filter_eq_nil_iff.mpr fun b _ hu => ?_)
  obtain ⟨howned, hjob⟩ := h b
  cases hs : (st.buffer b).state with
  | owned o => exact howned (by rw [hs]; rw [hs] at hu; simpa [BufferState.usedBy] using hu)
  | inJob o tag =>
    refine hjob tag ?_
    rw [hs] at hu ⊢
    simpa [BufferState.usedBy] using hu
  | _ => rw [hs] at hu; simp [BufferState.usedBy] at hu

/-! ### The blocks of a port reset -/

/-- The part once every block but the line controller, the notice unit and the counters has been reset for `m`; with `goes` the
reception in progress is abandoned (R28, R42, R56, R111, R137, R138). -/
def resetBlocks (m : Master) (goes : Bool) (s : State) : State :=
  { s with
    store := s.store.resetPort m goes, table := tableAfterReset m s.table, receiver := if goes then none else s.receiver,
    transmitter := transmitterAfterReset m s, delivery := ⟨s.delivery.inbound.set m [], s.delivery.late.set m none⟩,
    jobs := { s.jobs with
      outbound := s.jobs.outbound.set m [], completions := s.jobs.completions.set m [], tagCounter := s.jobs.tagCounter.set m 0,
      running := if runsFor m s.jobs.running then none else s.jobs.running } }

/-- The line controller's flags, the notices, the counters and the port settings of `m` reset, after every other block (R66, R86, R160,
R175, R184). -/
def resetOwn (m : Master) (d : State) : State :=
  { d with
    line := { d.line with flags := d.line.flags.set m LineFlags.reset }, notices := d.notices.set m Notices.reset,
    counters := d.counters.set m Counters.reset,
    ports := d.ports.set m { d.ports.get m with settings := PortSettings.reset } }

theorem portReset_eq (m : Master) (s : State) :
    portReset m s = ⟨.ok, [], resetOwn m (leaveWantSet m (resetBlocks m (takesLineDown m s) s))⟩ := by
  have hb : resetStore m (setTable (withoutMaster s.table m) (resetDelivery m (resetJobs m s))) =
      resetBlocks m (takesLineDown m s) s := by
    rw [resetJobs_eq]
    rfl
  have ht : (resetJobs m s).table = s.table := by rw [resetJobs_eq]
  unfold portReset
  simp only
  rw [show (resetDelivery m (resetJobs m s)).table = s.table from ht, hb]
  rfl

theorem State.eq_of_store {t u : State} (hs : t.store = u.store) (h : t = { u with store := t.store }) : t = u := by
  rw [h, hs]

/-- Settles O52: the line stays, so the blocks' own parts are all there is. -/
theorem portResetClearsOneMaster : Obligations.PortResetClearsOneMaster := by
  unfold Obligations.PortResetClearsOneMaster
  intro m s h hstays
  have hkeep : takesLineDown m s = false := by
    unfold takesLineDown
    rcases hstays with hw | hd
    · rw [hw, Bool.false_and]
    · rw [hd]
      simp [LineState.isDown]
  obtain ⟨hbuf, hstore⟩ := s.store.resetPort_spec m false
  have hheld : ∀ b, ((s.store.resetPort m false).buffer b).state ≠ .owned m ∧
      (∀ tag, ((s.store.resetPort m false).buffer b).state ≠ .inJob m tag) ∧
      ∀ pending holders, ((s.store.resetPort m false).buffer b).state = .delivered pending holders →
        pending.get m = false ∧ holders.get m = false := fun b => by
    rw [hbuf]
    exact BufferRecord.afterReset_not_held ..
  have hleave : leaveWantSet m (resetBlocks m false s) = { resetBlocks m false s with
      line := { s.line with want := MasterSet.erase s.line.want m } } := by
    unfold leaveWantSet
    exact if_neg (Bool.eq_false_iff.mp hkeep)
  rw [exec_of_ready rfl rfl h, portReset_eq, hkeep, hleave]
  exact ⟨_, rfl, State.eq_of_store hstore rfl, hbuf, hheld, Store.usage_eq_zero fun b => ⟨(hheld b).1, (hheld b).2.1⟩⟩

/-! ### The line goes down -/

/-- The job that ends with the line's departure from UP, if there is one (R135). -/
def State.gone (s : State) : Option Running := if s.line.state.isUp then s.jobs.running else none

/-- What a line's going DOWN with no reception in progress has done to every block, `s` before it and `t` after it (R65, R82). -/
structure WentDown (s t : State) : Prop where
  blocks : t = { s with
    line := { s.line with state := .down, flags := t.line.flags, idle := 0, access := 0, low := 0 },
    store := { s.store with buffers := t.store.buffers },
    receiver := none,
    transmitter := if s.line.state.isUp then ⟨s.transmitter.wire.cut, none, none⟩ else s.transmitter,
    delivery := { s.delivery with late := match s.gone with
      | some r => r.departureLate s.delivery.late
      | none => s.delivery.late },
    jobs := { s.jobs with
      completions := match s.gone with
        | some r => s.jobs.completions.modify r.job.master (· ++ [r.departureEntry s.timeBase])
        | none => s.jobs.completions,
      running := if s.line.state.isUp then none else s.jobs.running },
    holds := if s.line.state.isUp then [] else s.holds,
    notices := t.notices }
  flags : ∀ n, t.line.flags.get n = { s.line.flags.get n with upKept := (s.line.flags.get n).upKept && !s.line.state.isUp }
  notices : ∀ n, t.notices.get n = { s.notices.get n with
    request := { (s.notices.get n).request with
      line := (s.notices.get n).request.line || s.line.state.isUp,
      completion := (s.notices.get n).request.completion || runsFor n s.gone } }
  buffers : ∀ b, t.store.buffer b = (s.store.buffer b).returned s.gone

theorem goDown_wentDown {s : State} (hr : s.receiver = none) (hd : s.line.state ≠ .down) : WentDown s (goDown s) := by
  have hstore : abandonedStore s = s.store := by
    unfold abandonedStore
    rw [hr]
    rfl
  cases hu : s.line.state.isUp with
  | false =>
    have hgone : s.gone = none := by simp [State.gone, hu]
    rw [goDown_of_not_up hd hu, hstore]
    refine ⟨?_, fun n => ?_, fun n => ?_, fun b => ?_⟩
    · simp [hgone, hu]
    · simp [hu]
    · simp [hu, hgone, runsFor]
    · rw [hgone]
      rfl
  | true =>
    have hgone : s.gone = s.jobs.running := by simp [State.gone, hu]
    obtain ⟨⟨hall, hflags, hnotices, hst, hbuf⟩, hline⟩ := goDown_of_up hu
    rw [hstore] at hst hbuf
    refine ⟨?_, fun n => ?_, fun n => ?_, fun b => ?_⟩
    · refine hall.trans ?_
      rw [← hline, ← hst, hgone]
      simp only [hu, if_true]
      cases s.jobs.running <;> cases s.transmitter.wire <;> rfl
    · rw [hflags n n.mem_all, hu]
      simp
    · rw [hnotices n n.mem_all, hu, hgone]
      simp
    · rw [hbuf, hgone]

/-- A cut cuts what the cut of a job's attempt has left of the frame on the wire (R56). -/
theorem cut_transmitterAfterReset (m : Master) (s : State) :
    (transmitterAfterReset m s).wire.cut = s.transmitter.wire.cut := by
  unfold transmitterAfterReset
  split
  · cases s.transmitter.wire with
    | none => rfl
    | sending f rest => cases hf : f.sender <;> simp [Wire.cut, hf, List.take_take]
    | turnaround f left => cases hf : f.sender <;> simp [Wire.cut, hf]
  · rfl

theorem BufferRecord.returned_not_owned {r : BufferRecord} {m : Master} {gone : Option Running} (h : r.state ≠ .owned m)
    (hj : ∀ tag, r.state ≠ .inJob m tag) :
    (r.returned gone).state ≠ .owned m ∧ ∀ tag, (r.returned gone).state ≠ .inJob m tag := by
  cases gone with
  | none => exact ⟨h, hj⟩
  | some q =>
    unfold BufferRecord.returned
    simp only
    split
    · rename_i hq
      refine ⟨fun e => ?_, fun tag => by simp⟩
      rw [BufferState.owned.injEq] at e
      exact hj q.job.tag (by rw [hq, e])
    · exact ⟨h, hj⟩

theorem BufferRecord.returned_not_filling {r : BufferRecord} {gone : Option Running} (h : r.state ≠ .filling) :
    (r.returned gone).state ≠ .filling := by
  cases gone with
  | none => exact h
  | some q =>
    unfold BufferRecord.returned
    simp only
    split
    · simp
    · exact h

theorem Jobs.eq_of_running {j k : Jobs} (hr : j.running = k.running) (h : j = { k with running := j.running }) : j = k := by
  rw [h, hr]

theorem State.eq_of_blocks {t u : State} (hs : t.store = u.store) (ht : t.transmitter = u.transmitter) (hj : t.jobs = u.jobs)
    (h : t = { u with store := t.store, transmitter := t.transmitter, jobs := t.jobs }) : t = u := by
  rw [h, hs, ht, hj]

/-- Settles O53: the blocks' own parts, and then what the line's going DOWN does to them. -/
theorem portResetTakesTheLineDown : Obligations.PortResetTakesTheLineDown := by
  unfold Obligations.PortResetTakesTheLineDown
  intro m s h hw hd isUp lost cleared late
  have hgoes : takesLineDown m s = true := by
    unfold takesLineDown
    rw [hw]
    cases hs : s.line.state <;> simp [LineState.isDown, hs] at hd ⊢
  obtain ⟨hbuf, hstore⟩ := s.store.resetPort_spec m true
  have hleave : leaveWantSet m (resetBlocks m true s) = goDown { resetBlocks m true s with
      line := { s.line with want := MasterSet.erase s.line.want m } } := by
    unfold leaveWantSet
    exact if_pos hgoes
  have down := goDown_wentDown (s := { resetBlocks m true s with line := { s.line with want := MasterSet.erase s.line.want m } })
    rfl hd
  have hgone : State.gone { resetBlocks m true s with line := { s.line with want := MasterSet.erase s.line.want m } } = lost := by
    show (if s.line.state.isUp then (if runsFor m s.jobs.running then none else s.jobs.running) else none) = _
    by_cases hu : s.line.state.isUp = true <;> by_cases hf : runsFor m s.jobs.running = true <;> simp [lost, isUp, hu, hf]
  rw [exec_of_ready rfl rfl h, portReset_eq, hgoes, hleave]
  obtain ⟨hblocks, hflags, hnotices, hbuffers⟩ := down
  rw [hgone] at hblocks hnotices hbuffers
  generalize goDown { resetBlocks m true s with line := { s.line with want := MasterSet.erase s.line.want m } } = d at *
  have hrecords : ∀ b, d.store.buffer b = ((s.store.buffer b).afterReset m true).returned lost := fun b => by
    rw [hbuffers, ← hbuf]
    rfl
  refine ⟨resetOwn m d, rfl, ?_, hrecords, PerMaster.get_set_self .., PerMaster.get_set_self .., fun n hn => ⟨?_, ?_⟩, fun b => ?_,
    Store.usage_eq_zero fun b => ?_⟩
  · have htransmitter : d.transmitter = if isUp then ⟨s.transmitter.wire.cut, none, none⟩ else transmitterAfterReset m s := by
      rw [← cut_transmitterAfterReset m]
      exact congrArg State.transmitter hblocks
    have hjobs := congrArg State.jobs hblocks
    have hrunning : d.jobs.running = if isUp || runsFor m s.jobs.running then none else s.jobs.running := by
      refine (congrArg Jobs.running hjobs).trans ?_
      by_cases hu : s.line.state.isUp = true <;> by_cases hf : runsFor m s.jobs.running = true <;>
        simp [isUp, resetBlocks, hu, hf]
    have hst : d.store = { s.store with buffers := d.store.buffers, freeQueue := queueAfterReset m true s.store } :=
      (congrArg State.store hblocks).trans (congrArg (fun st : Store => { st with buffers := d.store.buffers }) hstore)
    refine State.eq_of_blocks hst htransmitter (Jobs.eq_of_running hrunning ?_) ?_
    · show d.jobs = _
      rw [show (resetOwn m d).jobs = d.jobs from rfl, hjobs]
      rfl
    · rw [hblocks]
      rfl
  · exact (PerMaster.get_set_of_ne _ hn _).trans (hflags n)
  · exact (PerMaster.get_set_of_ne _ hn _).trans (hnotices n)
  · rw [show (resetOwn m d).store.buffer b = _ from hrecords b]
    refine BufferRecord.returned_not_filling fun e => ?_
    cases (BufferRecord.afterReset_filling.mp e).2
  · rw [show (resetOwn m d).store.buffer b = _ from hrecords b]
    obtain ⟨howned, hjob, -⟩ := BufferRecord.afterReset_not_held (s.store.buffer b) m true
    exact BufferRecord.returned_not_owned howned hjob

end Sys2Proof.Machine
end

section
/-!
PROOFS. The address classes (R29) and the address table's commands (R32 to R37).
-/

namespace Sys2Proof.Machine

/-! ### Address classes -/

theorem isUnicast_eq (a : Byte) : isUnicast a = decide (1 ≤ a.toNat ∧ a.toNat ≤ 0xDF) := (Bool.decide_and ..).symm

theorem isUnicast_iff {a : Byte} : isUnicast a = true ↔ 1 ≤ a.toNat ∧ a.toNat ≤ 0xDF := by
  rw [isUnicast_eq, decide_eq_true_eq]

theorem isGroup_iff {a : Byte} : isGroup a = true ↔ 0xE0 ≤ a.toNat ∧ a.toNat ≤ 0xFE := by
  simp [isGroup]

/-! ### CLAIM, DROP, JOIN, LEAVE and TABLE READ -/

/-- Settles O18, case by case in the order in which CLAIM and DROP check. -/
theorem claimAndDrop : Obligations.ClaimAndDrop := by
  unfold Obligations.ClaimAndDrop
  refine ⟨fun m a s h => ?_, fun m a s h => ?_⟩
  · rw [exec_of_ready rfl rfl h]
    congr 1
    by_cases ha : 1 ≤ a.toNat ∧ a.toNat ≤ 0xDF
    · simp only [claim, isUnicast_iff.mpr ha, entryFor, ha]
      cases s.table.find? fun e => e.address = a with
      | none => by_cases hf : 16 ≤ s.table.length <;> simp [hf, Config.tableCapacity, refuse, setTable]
      | some e => cases he : e.subscribers.get m <;> simp [he, refuse]
    · simp [claim, mt isUnicast_iff.mp ha, ha, refuse]
  · rw [exec_of_ready rfl rfl h]
    congr 1
    by_cases ha : 1 ≤ a.toNat ∧ a.toNat ≤ 0xDF
    · simp only [drop, isUnicast_iff.mpr ha, entryFor, ha]
      cases s.table.find? fun e => e.address = a with
      | none => simp [refuse]
      | some e => cases he : e.subscribers.get m <;> simp [he, refuse, setTable, withoutEntry]
    · simp [drop, mt isUnicast_iff.mp ha, ha, refuse]

/-- Settles O19, case by case in the order in which JOIN and LEAVE check. -/
theorem joinAndLeave : Obligations.JoinAndLeave := by
  unfold Obligations.JoinAndLeave
  refine ⟨fun m g s h => ?_, fun m g s h => ?_⟩
  · rw [exec_of_ready rfl rfl h]
    congr 1
    by_cases hg : 0xE0 ≤ g.toNat ∧ g.toNat ≤ 0xFE
    · simp only [join, isGroup_iff.mpr hg, entryFor, hg]
      cases s.table.find? fun e => e.address = g with
      | none => by_cases hf : 16 ≤ s.table.length <;> simp [hf, Config.tableCapacity, refuse, setTable]
      | some e => cases he : e.subscribers.get m <;> simp [he, setTable, withSubscribers]
    · simp [join, mt isGroup_iff.mp hg, hg, refuse]
  · rw [exec_of_ready rfl rfl h]
    congr 1
    by_cases hg : 0xE0 ≤ g.toNat ∧ g.toNat ≤ 0xFE
    · simp only [leave, isGroup_iff.mpr hg, entryFor, hg]
      cases s.table.find? fun e => e.address = g with
      | none => simp [refuse]
      | some e =>
        cases he : e.subscribers.get m with
        | false => simp [he, refuse]
        | true =>
          cases hl : (MasterSet.erase e.subscribers m).isEmpty <;>
            simp [he, hl, setTable, withSubscribers, withoutEntry]
    · simp [leave, mt isGroup_iff.mp hg, hg, refuse]

theorem masterSetByte_eq (ms : MasterSet) : masterSetByte ms =
    (if ms.a then 1 else 0) + (if ms.b then 2 else 0) + (if ms.c then 4 else 0) + (if ms.d then 8 else 0) := by
  obtain ⟨a, b, c, d⟩ := ms
  revert a b c d
  decide

theorem classByte_eq (a : Byte) : classByte a = if 0xE0 ≤ a.toNat ∧ a.toNat ≤ 0xFE then 1 else 0 := by
  simp only [classByte, isGroup_iff]

/-- Settles O20, case by case in the order in which TABLE READ checks. -/
theorem tableReadEntry : Obligations.TableReadEntry := by
  unfold Obligations.TableReadEntry
  intro m i s h
  rw [exec_of_ready rfl rfl h]
  congr 1
  by_cases hi : 15 < i.toNat
  · simp only [tableRead, hi, if_true, refuse]
  · simp only [tableRead, hi, if_false]
    cases s.table[i.toNat]? with
    | none => rfl
    | some e => simp only [classByte_eq, masterSetByte_eq, natByte]

end Sys2Proof.Machine
end

section
/-!
PROOFS. The job engine: how the RUNNING job ends (R128, R129), what an order that is due does (R119 to R126), and how an attempt begins
(R41, R51, R52, R120, R148).
-/

namespace Sys2Proof.Machine

/-! ### The end of the RUNNING job -/

/-- The end of the RUNNING job reaches the job engine, the buffer records and the master's notices only (R128, R129). -/
theorem endJob_eq {s : State} {r : Running} (hr : s.jobs.running = some r) (outcome : JobOutcome) (failing : Option Nat) :
    endJob outcome failing s = raiseAt r.job.master .completion { s with
      store := s.store.returnJob r.job.master r.job.tag,
      jobs := { s.jobs with
        running := none,
        completions := s.jobs.completions.modify r.job.master (· ++
          [⟨r.job.tag, outcome, failing, r.job.steps, r.job.lastAwait, r.job.reply, s.timeBase⟩]) } } :=
  endJob_of_running hr outcome failing

/-- Once the RUNNING job has ended no attempt is due. -/
theorem takeAttempt_endJob (outcome : JobOutcome) (failing : Option Nat) (s : State) :
    takeAttempt (endJob outcome failing s) = endJob outcome failing s :=
  takeAttempt_of_settled (settled_of_none (endJob_running outcome failing s))

/-- An attempt that is due begins in place of the order in progress. -/
theorem takeAttempt_setRunning {r : Running} {b : BufferId} {h : Header} (hd : r.doing = .due b h) (s : State) :
    takeAttempt (setRunning (some r) s) =
      beginAttempt { r with doing := .send } b h (setRunning (some { r with doing := .send }) s) :=
  takeAttempt_of_due rfl hd

/-! ### An order that is due -/

section

variable {s : State} {r : Running} (hr : s.jobs.running = some r) (fuel : Nat)

include hr

theorem orderReached_past_list (ho : r.job.orders[r.job.index]? = none) :
    orderReached (fuel + 1) s = endJob .orderError (some r.job.index) s := by
  simp only [orderReached, hr, ho]

theorem orderReached_at_limit {o : JobOrder} (ho : r.job.orders[r.job.index]? = some o) (hs : 32 ≤ r.job.steps) :
    orderReached (fuel + 1) s = endJob .stepLimit (some r.job.index) s := by
  simp only [orderReached, hr, ho, Config.stepLimit, hs, if_true]

variable {header : Option Header} (hs : r.job.steps < 32)

include hs

theorem orderReached_finish (ho : r.job.orders[r.job.index]? = some ⟨.finish, header⟩) :
    orderReached (fuel + 1) s =
      endJob .ok none (setRunning (some { r with job := { r.job with steps := r.job.steps + 1 } }) s) := by
  simp only [orderReached, hr, ho, Config.stepLimit, Nat.not_le.mpr hs, if_false]

theorem orderReached_wait {t : Nat} (ho : r.job.orders[r.job.index]? = some ⟨.wait t, header⟩) :
    orderReached (fuel + 1) s =
      setRunning (some { r with job := { r.job with steps := r.job.steps + 1 }, doing := .wait (t * 11) }) s := by
  simp only [orderReached, hr, ho, Config.stepLimit, Config.bitsPerCt, Nat.not_le.mpr hs, if_false]

/-- An AWAIT after a REQUEST: the late-reply record is emptied and the last SEND gives the capture key (R122). -/
theorem orderReached_await {t : Nat} {last : LastSend} (ho : r.job.orders[r.job.index]? = some ⟨.await t, header⟩)
    (hl : r.job.lastSend = some last) (hk : last.kind = 0x20) :
    orderReached (fuel + 1) s =
      { setRunning (some { r with job := { r.job with steps := r.job.steps + 1 }, doing := .await last.key (t * 11) }) s with
        delivery := { s.delivery with late := s.delivery.late.set r.job.master none } } := by
  simp only [orderReached, hr, ho, Config.stepLimit, Config.bitsPerCt, Nat.not_le.mpr hs, if_false, hl, Option.bind_some,
    (ofByte_eq_request _).mpr hk, if_true]

/-- An AWAIT without a REQUEST sent before it (R119). -/
theorem orderReached_await_refused {t : Nat} (ho : r.job.orders[r.job.index]? = some ⟨.await t, header⟩)
    (hl : ∀ last ∈ r.job.lastSend, last.kind ≠ 0x20) :
    orderReached (fuel + 1) s =
      endJob .orderError (some r.job.index)
        (setRunning (some { r with job := { r.job with steps := r.job.steps + 1 } }) s) := by
  have no_request : ¬(r.job.lastSend.bind fun l => FrameKind.ofByte l.kind) = some .request := fun e => by
    obtain ⟨last, hlast, hk⟩ := Option.bind_eq_some_iff.mp e
    exact hl last hlast ((ofByte_eq_request _).mp hk)
  simp only [orderReached, hr, ho, Config.stepLimit, Nat.not_le.mpr hs, if_false, no_request]

theorem orderReached_branch {condition : Condition} {target : Nat}
    (ho : r.job.orders[r.job.index]? = some ⟨.branch condition target, header⟩) :
    orderReached (fuel + 1) s =
      orderReached fuel (setRunning (some { r with job := { r.job with
        steps := r.job.steps + 1,
        index := if condition.met r.job.lastAwait then target else r.job.index + 1 } }) s) := by
  simp only [orderReached, hr, ho, Config.stepLimit, Nat.not_le.mpr hs, if_false]

theorem orderReached_send {b : BufferId} {h : Header} (ho : r.job.orders[r.job.index]? = some ⟨.send b, some h⟩) :
    orderReached (fuel + 1) s =
      setRunning (some { r with job := { r.job with steps := r.job.steps + 1, retries := 0 }, doing := .due b h }) s := by
  simp only [orderReached, hr, ho, Config.stepLimit, Nat.not_le.mpr hs, if_false, Option.getD_some]

end

/-- A BRANCH condition as the laws say it (R124). -/
theorem Condition.met_iff (condition : Condition) (o : AwaitOutcome) : condition.met o = true ↔ match condition with
    | .replied => o = .replied
    | .busy => o = .busy
    | .silent => o = .silent
    | .notReplied => o ≠ .replied := by
  cases condition <;> simp [Condition.met]

/-! ### The beginning of an attempt -/

section

variable {s : State} {r : Running} {h : Header} (b : BufferId)

theorem beginAttempt_of_not_owner (ho : ownerOf s.table h.source ≠ some r.job.master) :
    beginAttempt r b h s = endJob .notOwner (some r.job.index) s := by
  simp only [beginAttempt, ho, ne_eq, not_false_eq_true, if_true]

variable (ho : ownerOf s.table h.source = some r.job.master)

include ho

theorem beginAttempt_of_local (hd : destinationCheck s.table r.job.master h = .localTarget) :
    beginAttempt r b h s = endJob .localTarget (some r.job.index) s := by
  simp only [beginAttempt, ho, ne_eq, not_true_eq_false, if_false, hd]

variable {loopBack : Bool} (hd : destinationCheck s.table r.job.master h = .sent loopBack)

include hd

theorem beginAttempt_of_held (hh : isHeld s.holds h.destination = true) :
    beginAttempt r b h s = endJob .held (some r.job.index) s := by
  simp only [beginAttempt, ho, ne_eq, not_true_eq_false, if_false, hd, hh, if_true]

/-- An attempt that passes its checks fetches the image, which fails it if the buffer is damaged then (R51, R52, R120). -/
theorem beginAttempt_of_fetch (hh : isHeld s.holds h.destination = false) :
    let fetched := readWords (wordsOf b 0 ((4 + h.length.toNat) / 8)) s
    beginAttempt r b h s =
      if (fetched.2.store.buffer b).damaged then endJob .storeError (some r.job.index) fetched.2
      else { fetched.2 with transmitter := { s.transmitter with
        waiting := some ⟨fetched.1.take (5 + h.length.toNat), backoffOf h r.job.retries, loopBack⟩ } } := by
  obtain ⟨-, -, -, -, transmitter, -⟩ := readWords_sameBesideStore (wordsOf b 0 ((4 + h.length.toNat) / 8)) s
  simp only [beginAttempt, ho, ne_eq, not_true_eq_false, if_false, hd, hh, Bool.false_eq_true, transmitter]

end

/-- Settles O34: the end of a job, each order that is due, and the checks of an attempt, in their order. -/
theorem endOfAJob : Obligations.EndOfAJob := by
  unfold Obligations.EndOfAJob
  refine ⟨?ends, ?order_due, ?attempt⟩
  case ends =>
    intro outcome failing r s hr
    rw [endJob_eq hr]
    exact ⟨rfl, Store.buffer_returnJob s.store r.job.master r.job.tag, rfl⟩
  case order_due =>
    intro fuel r s hr begun runs
    refine ⟨fun ho => ?_, fun o header ho => ⟨fun hs => ?_, fun hs => ⟨?finish, ?wait, ?await, ?refused, ?branch, ?send⟩⟩⟩
    · rw [orderDue, orderReached_past_list hr fuel ho, takeAttempt_endJob]
    · rw [orderDue, orderReached_at_limit hr fuel ho hs, takeAttempt_endJob]
    case finish =>
      rintro rfl
      rw [orderDue, orderReached_finish hr fuel hs ho, takeAttempt_endJob]
      rfl
    case wait =>
      rintro t rfl
      rw [orderDue, orderReached_wait hr fuel hs ho]
      exact takeAttempt_of_settled (settled_of_doing rfl (by simp))
    case await =>
      rintro t last rfl hl hk
      rw [orderDue, orderReached_await hr fuel hs ho hl hk]
      exact takeAttempt_of_settled (settled_of_doing rfl (by simp))
    case refused =>
      rintro t rfl hl
      rw [orderDue, orderReached_await_refused hr fuel hs ho hl, takeAttempt_endJob]
      rfl
    case branch =>
      rintro condition target rfl met
      rw [orderDue, orderReached_branch hr fuel hs ho]
      refine ⟨fun hm => ?_, fun hm => ?_⟩
      · rw [if_pos ((condition.met_iff _).mpr hm)]
        rfl
      · rw [if_neg (mt (condition.met_iff _).mp hm)]
        rfl
    case send =>
      rintro b h rfl rfl
      rw [orderDue, orderReached_send hr fuel hs ho]
      exact takeAttempt_setRunning rfl _
  case attempt =>
    intro r b h s hr ends owner isLocal held fetched
    refine ⟨beginAttempt_of_not_owner b, fun ho => ⟨fun hl => ?_, fun hl hh => ?_, fun hl hh hd => ?_, fun hl hh hd => ?_⟩⟩
    · exact beginAttempt_of_local b ho (destinationCheck_of_local hl)
    · exact beginAttempt_of_held b ho (destinationCheck_of_sent hl) ((isHeld_iff ..).mpr hh)
    · rw [beginAttempt_of_fetch b ho (destinationCheck_of_sent hl) (Bool.eq_false_iff.mpr (mt (isHeld_iff ..).mp hh))]
      exact if_pos hd
    · have no_unicast : (!isUnicast h.destination) = decide ¬(1 ≤ h.destination.toNat ∧ h.destination.toNat ≤ 0xDF) := by
        rw [isUnicast_eq, decide_not]
      rw [beginAttempt_of_fetch b ho (destinationCheck_of_sent hl) (Bool.eq_false_iff.mpr (mt (isHeld_iff ..).mp hh)), no_unicast]
      exact if_neg (Bool.eq_false_iff.mp hd)

end Sys2Proof.Machine
end

section
/-!
PROOFS. Fan-out of a good frame (R91, R101 to R103), and what the law of the address table makes of target sets and owners (R30, R38,
R40).
-/

namespace Sys2Proof.Machine

/-! ### Target sets and owners -/

theorem LawfulTable.entryFor_iff {table : List TableEntry} (h : LawfulTable table) {a : Byte} {e : TableEntry} :
    entryFor table a = some e ↔ e ∈ table ∧ e.address = a := by
  obtain ⟨-, distinct, -⟩ := h
  refine ⟨entryFor_eq_some, fun ⟨he, ha⟩ => ?_⟩
  cases hf : entryFor table a with
  | none => exact absurd (List.mem_map.mpr ⟨e, he, ha⟩) (entryFor_eq_none hf)
  | some f =>
    obtain ⟨hft, hfa⟩ := entryFor_eq_some hf
    rw [List.inj_on_of_nodup_map distinct hft he (hfa.trans ha.symm)]

/-- The one master of a set of one is its first. -/
theorem firstMaster_eq_some {ms : MasterSet} {m : Master} (h : MasterSet.size ms = 1) :
    firstMaster ms = some m ↔ ms = MasterSet.singleton m := by
  obtain ⟨a, b, c, d⟩ := ms
  revert a b c d
  cases m <;> decide

theorem targetSet_broadcast (s : State) (m : Master) : (targetSet s 0xFF).get m = (s.ports.get m).settings.acceptBroadcast := by
  rw [targetSet, if_pos (by decide), broadcastAcceptors, PerMaster.get_map]

theorem LawfulTable.targetSet_get {s : State} (h : LawfulTable s.table) {d : Byte} (hd : d ≠ 0xFF) (m : Master) :
    (targetSet s d).get m = true ↔ ∃ e ∈ s.table, e.address = d ∧ e.subscribers.get m = true := by
  have no_broadcast : ¬isBroadcast d = true := by simpa [isBroadcast] using hd
  rw [targetSet, if_neg no_broadcast]
  cases he : entryFor s.table d with
  | none =>
    refine ⟨fun hm => ?_, fun ⟨e, het, hea, _⟩ => ?_⟩
    · simp [MasterSet.get_empty] at hm
    · rw [h.entryFor_iff.mpr ⟨het, hea⟩] at he
      cases he
  | some e =>
    refine ⟨fun hm => ?_, fun ⟨f, hft, hfa, hm⟩ => ?_⟩
    · obtain ⟨het, hea⟩ := h.entryFor_iff.mp he
      exact ⟨e, het, hea, hm⟩
    · rw [h.entryFor_iff.mpr ⟨hft, hfa⟩] at he
      cases he
      exact hm

/-- Under the law of the address table the owner of a unicast address is the one subscriber of its entry (R30, R40). -/
theorem LawfulTable.ownerOf_eq_some {table : List TableEntry} (h : LawfulTable table) {d : Byte} {m : Master} :
    ownerOf table d = some m ↔ (1 ≤ d.toNat ∧ d.toNat ≤ 0xDF) ∧
      ∃ e ∈ table, e.address = d ∧ e.subscribers = MasterSet.singleton m := by
  rw [← isUnicast_iff]
  by_cases hu : isUnicast d = true
  · have one_subscriber : ∀ e ∈ table, e.address = d → MasterSet.size e.subscribers = 1 := by
      rintro e he rfl
      obtain ⟨-, -, lawful⟩ := h
      rcases lawful e he with ⟨-, h1⟩ | ⟨hg, -⟩
      · exact h1
      · rw [not_isUnicast_of_isGroup hg] at hu
        cases hu
    rw [ownerOf, if_pos hu, Option.bind_eq_some_iff]
    constructor
    · rintro ⟨e, he, hm⟩
      obtain ⟨het, hea⟩ := h.entryFor_iff.mp he
      exact ⟨hu, e, het, hea, (firstMaster_eq_some (one_subscriber e het hea)).mp hm⟩
    · rintro ⟨-, e, het, hea, hm⟩
      exact ⟨e, h.entryFor_iff.mpr ⟨het, hea⟩, (firstMaster_eq_some (one_subscriber e het hea)).mpr hm⟩
  · simp only [ownerOf, hu, if_false, reduceCtorEq, false_and]

/-! ### The delivery decision -/

/-- A DATA frame goes to its frame-end targets (R91). -/
theorem deliver_data {h : Header} (hk : h.kind = 0x10) (b : Option BufferId) (s : State) :
    deliver h b s = deliverTo (targetSet s h.destination) h b false s := by
  simp only [deliver, (ofByte_eq_data _).mpr hk]

/-- A REQUEST to a group address or to 0xFF goes to its frame-end targets (R91). -/
theorem deliver_group_request {h : Header} (hk : h.kind = 0x20) (hd : 0xE0 ≤ h.destination.toNat) (b : Option BufferId) (s : State) :
    deliver h b s = deliverTo (targetSet s h.destination) h b false s := by
  have no_unicast : ¬isUnicast h.destination = true := fun hu => by
    have := isUnicast_iff.mp hu
    omega
  simp only [deliver, (ofByte_eq_request _).mpr hk, no_unicast, Bool.false_eq_true, if_false]

/-- Settles O41: such a frame is delivered to its target set, which the frame's end does not change. -/
theorem dataFrameIsFannedOut : Obligations.DataFrameIsFannedOut := by
  unfold Obligations.DataFrameIsFannedOut
  refine ⟨fun s d m law => ?_, fun s f hs hf he hm hu => ?_⟩
  · have lawful := (tableLaw_iff s).mp law
    exact ⟨targetSet_broadcast s m, fun hd => lawful.targetSet_get hd m, lawful.ownerOf_eq_some⟩
  · intro h kind ended
    have delivered : deliver h f.buffer ended = deliverTo (targetSet s h.destination) h f.buffer false ended := by
      rcases kind with hk | ⟨hk, hd⟩
      · exact deliver_data hk ..
      · exact deliver_group_request hk hd ..
    refine ⟨_, exec_frameEnd_delivers hs hf he hm hu, ?_⟩
    rw [delivered]
    exact deliverTo_delivered ..

end Sys2Proof.Machine
end

section
/-!
PROOFS. What a character on RXD does in every line state (R44, R48, R49, R57 to R63, R78, R81).
-/

namespace Sys2Proof.Machine

/-! ### The time of a character -/

theorem restartIdle_of_in_use {s : State} (hd : s.line.state ≠ .down) (low : Nat) :
    restartIdle low s = { s with line := { s.line with idle := 0, access := 0, low := low } } := by
  unfold restartIdle
  split
  · exact absurd ‹_› hd
  · rfl

theorem lineTime_in_use {s : State} (hd : s.line.state ≠ .down) (n : Nat) : (lineTime n s).line.state ≠ .down := by
  rw [lineTime_line]
  cases hl : s.line.state <;> simp [LineState.after, hl] at hd ⊢

theorem characterTime_of_in_use {s : State} (hd : s.line.state ≠ .down) (low : Nat) :
    characterTime low s = { lineTime (s.line.low + 11) s with
      line := { (lineTime (s.line.low + 11) s).line with idle := 0, access := 0, low := low } } :=
  restartIdle_of_in_use (lineTime_in_use hd _) low

/-- In UP a character restarts the silence timer besides (R80). -/
theorem characterArrives_of_up {s : State} {silence bad : Nat} (hl : s.line.state = .up silence bad) (low : Nat) :
    characterArrives low s = { lineTime (s.line.low + 11) s with
      line := { (lineTime (s.line.low + 11) s).line with state := .up 0 bad, idle := 0, access := 0, low := low } } := by
  rw [characterArrives, characterTime_of_in_use (by simp [hl])]
  simp only [reportCharacter, lineTime_line, hl, LineState.after]

theorem characterArrives_of_not_up {s : State} (hd : s.line.state ≠ .down) (hu : s.line.state.isUp = false) (low : Nat) :
    characterArrives low s = { lineTime (s.line.low + 11) s with
      line := { (lineTime (s.line.low + 11) s).line with idle := 0, access := 0, low := low } } := by
  have not_up : (lineTime (s.line.low + 11) s).line.state.isUp = false := (lineTime_isUp ..).trans hu
  rw [characterArrives, characterTime_of_in_use hd, reportCharacter]
  split
  · rename_i h
    rw [show (lineTime (s.line.low + 11) s).line.state = _ from h] at not_up
    cases not_up
  · rfl

/-! ### A character heard -/

/-- What the receiver does with a character of either kind. -/
def takeCharacter (address : Bool) (data : Byte) (stop : Bool) : State → State :=
  if address then takeAddress data stop else takeBody data stop

/-- A character's step, when no attempt is due. -/
theorem exec_character {s : State} (hs : Settled s) (address : Bool) (data : Byte) (stop : Bool) (runs : List Rat) (low : Nat) :
    exec (if address then .addressCharacter data stop runs low else .bodyCharacter data stop runs low) s =
      .next (receiveCharacter (takeCharacter address data stop) (lowAfter stop low) runs s) := by
  have hears (take : State → State) :
      (.next (receiveCharacter take (lowAfter stop low) runs (takeAttempt s)) : Host.Outcome State Fault Refusal) =
        .next (receiveCharacter take (lowAfter stop low) runs s) := by rw [takeAttempt_of_settled hs]
  cases address
  · exact hears (takeBody data stop)
  · exact hears (takeAddress data stop)

section

variable {s : State} (take : State → State) (low : Nat) (runs : List Rat)

theorem receiveCharacter_of_down (hd : s.line.state = .down) : receiveCharacter take low runs s = s := by
  rw [receiveCharacter, hd]
  rfl

variable (hd : s.line.state ≠ .down)

include hd

theorem receiveCharacter_of_in_use : receiveCharacter take low runs s = hearCharacter take low runs s := by
  unfold receiveCharacter
  cases hl : s.line.state <;> simp [LineState.isDown, hl] at hd ⊢

theorem receiveCharacter_while_sending {f : OnWire} {rest : List TxCharacter} (hw : s.transmitter.wire = .sending f rest) :
    receiveCharacter take low runs s = restartIdle low s := by
  rw [receiveCharacter_of_in_use take low runs hd, hearCharacter, hw]

theorem receiveCharacter_in_turnaround {f : OnWire} {left : Nat} (hw : s.transmitter.wire = .turnaround f left) :
    receiveCharacter take low runs s = characterTime low s := by
  rw [receiveCharacter_of_in_use take low runs hd, hearCharacter, hw]

theorem receiveCharacter_taken (hw : s.transmitter.wire = .none) (hk : s.line.state.isSeek = false) :
    receiveCharacter take low runs s = take (characterArrives low s) := by
  rw [receiveCharacter_of_in_use take low runs hd, hearCharacter, hw]
  simp only [hk, Bool.false_eq_true, if_false]

end

/-! ### A character taken -/

/-- A character is taken as `CharacterTaken` says, and a frame that an address character cuts is then reported as a bad one (R58, R61). -/
theorem takeCharacter_taken (address : Bool) (data : Byte) (stop : Bool) (s : State) :
    ∃ u, CharacterTaken address data stop s u ∧ u.line = s.line ∧
      (¬(address = true ∧ s.receiver ≠ none) → takeCharacter address data stop s = u) ∧
      (address = true ∧ s.receiver ≠ none → takeCharacter address data stop s = reportFrame false u) := by
  cases address with
  | false =>
    obtain ⟨taken, line⟩ := takeBody_taken data stop s
    exact ⟨takeBody data stop s, taken, line, fun _ => rfl, fun h => nomatch h.1⟩
  | true =>
    obtain ⟨u, taken, line, he⟩ := takeAddress_taken data stop s
    refine ⟨u, taken, line, fun hc => ?_, fun hc => ?_⟩
    · exact he.trans (if_pos (by simpa using hc))
    · exact he.trans (if_neg hc.2)

/-- The frame that an address character begins outside UP has no buffer to give back (R58). -/
theorem abandonedStore_of_begun {data : Byte} {stop : Bool} {s t : State} (hu : s.line.state.isUp = false)
    (h : FrameBegun data stop s t) : abandonedStore t = t.store := by
  rw [h.1 hu]
  rfl

theorem abandonedStore_of_cut {data : Byte} {stop : Bool} {s t : State} (hu : s.line.state.isUp = false) (hr : s.receiver ≠ none)
    (h : CharacterTaken true data stop s t) : abandonedStore t = t.store := by
  obtain ⟨v, begun, rfl⟩ := h.2 hr
  exact abandonedStore_of_begun (s := { s with receiver := none, store := abandonedStore s }) (t := v) hu begun

/-! ### The bad frame that a cut makes -/

/-- One bad frame more on a line that is UP in LEARN mode, short of the eighth of the run (R81). -/
theorem reportFrame_bad_counts {s : State} {silence bad : Nat} (hl : s.line.state = .up silence bad)
    (hm : s.line.settings.rateMode = .learn) (hb : bad < 7) :
    reportFrame false s = { s with line := { s.line with state := .up silence (bad + 1) } } := by
  have below : bad + 1 < Config.badRunLimit := by
    rw [Config.badRunLimit]
    omega
  simp only [reportFrame, hl, hm, Bool.false_eq_true, if_false, below, if_true, setLineState]

/-- The eighth bad frame of the run takes the line from UP to SEEK (R81, R82). -/
theorem reportFrame_bad_seeks {s : State} {silence bad : Nat} (hl : s.line.state = .up silence bad)
    (hm : s.line.settings.rateMode = .learn) (hb : 7 ≤ bad) :
    LeftUp s (reportFrame false s) ∧
      (reportFrame false s).line = { s.line with state := .seek [], flags := (reportFrame false s).line.flags } := by
  have reached : ¬bad + 1 < Config.badRunLimit := by
    rw [Config.badRunLimit]
    omega
  have seeks : reportFrame false s = goSeek (setLineState (.up silence (bad + 1)) s) := by
    simp only [reportFrame, hl, hm, Bool.false_eq_true, if_false, reached]
  rw [seeks]
  exact goSeek_of_up (s := setLineState (.up silence (bad + 1)) s) rfl

/-- A bad frame in QUALIFY takes the line to SEEK, and the reception in progress is abandoned (R63, R78). -/
theorem reportFrame_bad_of_qualify {s : State} {candidate : RateCode} {count window : Nat}
    (hl : s.line.state = .qualify candidate count window) : reportFrame false s =
      { s with line := { s.line with state := .seek [] }, receiver := none, store := abandonedStore s } := by
  simp only [reportFrame, hl, Bool.false_eq_true, if_false]
  exact goSeek_of_not_up (by simp [hl]) (by rw [hl]; rfl)

/-- Settles O39: DOWN, DE raised, and, with DE low, UP and QUALIFY, in which a cut is reported after the character has been taken. -/
theorem charactersAreTaken : Obligations.CharactersAreTaken := by
  unfold Obligations.CharactersAreTaken
  intro data stop address low runs s hs character restarted passed cuts
  have heard : exec character s = .next (receiveCharacter (takeCharacter address data stop) (lowAfter stop low) runs s) :=
    exec_character hs address data stop runs low
  rw [heard]
  refine ⟨fun hd => ?_, fun hd => ⟨fun f rest hw => ?_, fun f left hw => ?_⟩, fun hw =>
    ⟨fun silence bad hl => ?up, fun candidate count window hl => ?qualify⟩⟩
  · rw [receiveCharacter_of_down _ _ _ hd]
  · rw [receiveCharacter_while_sending _ _ _ hd hw, restartIdle_of_in_use hd]
    rfl
  · rw [receiveCharacter_in_turnaround _ _ _ hd hw, characterTime_of_in_use hd]
    rfl
  case up =>
    rw [receiveCharacter_taken _ _ _ (by simp [hl]) hw (by rw [hl]; rfl), characterArrives_of_up hl]
    obtain ⟨u, taken, line, kept, cut⟩ := takeCharacter_taken address data stop
      (restarted { passed with line := { passed.line with state := .up 0 bad } })
    have state : u.line.state = .up 0 bad := by rw [line]
    have mode : u.line.settings.rateMode = s.line.settings.rateMode := by rw [line]; rfl
    refine ⟨u, taken, fun h => ?_, fun hc hm hb => ?_, fun hc hm hb => ⟨_, congrArg _ (cut hc), ?_⟩⟩
    · by_cases hc : cuts
      · have fixed : s.line.settings.rateMode = .fixed := h.resolve_left (not_not_intro hc)
        exact congrArg _ ((cut hc).trans (reportFrame_of_fixed false (by rw [state]; rfl) (mode.trans fixed)))
      · exact congrArg _ (kept hc)
    · exact congrArg _ ((cut hc).trans (reportFrame_bad_counts state (mode.trans hm) hb))
    · exact reportFrame_bad_seeks state (mode.trans hm) hb
  case qualify =>
    have not_up : s.line.state.isUp = false := by rw [hl]; rfl
    have in_use : s.line.state ≠ .down := by simp [hl]
    rw [receiveCharacter_taken _ _ _ in_use hw (by rw [hl]; rfl), characterArrives_of_not_up in_use not_up]
    obtain ⟨u, taken, line, kept, cut⟩ := takeCharacter_taken address data stop (restarted passed)
    have state : u.line.state = .qualify candidate count (window - (s.line.low + 11)) := by
      rw [line]
      show s.line.state.after _ _ = _
      rw [hl]
      rfl
    refine ⟨u, taken, fun hc => congrArg _ (kept hc), fun hc => congrArg _ ((cut hc).trans ?_)⟩
    obtain ⟨rfl, hr⟩ := hc
    have no_buffer : abandonedStore u = u.store :=
      abandonedStore_of_cut (s := restarted passed) ((lineTime_isUp ..).trans not_up) hr taken
    rw [reportFrame_bad_of_qualify state, no_buffer]

end Sys2Proof.Machine
end

section
/-!
PROOFS. The laws of the line state and of the hold list: what each operation of the model keeps of them, and that a step keeps both (R57,
R58, R64, R65, R117, R140).
-/

namespace Sys2Proof.Machine

/-! ### The two laws as one, on the parts of a state that they name -/

/-- The laws of the line state and of the hold list. -/
structure LineLawful (line : Line) (running : Option Running) (receiver : Option Frame) (holds : List HoldEntry) : Prop where
  want : line.want.isEmpty = line.state.isDown
  job : running ≠ none → line.state.isUp = true ∧ line.settings.listenOnly = false
  noFrame : line.state.isDown = true → receiver = none
  buffer : ∀ f ∈ receiver, f.buffer ≠ none → line.state.isUp = true ∧ f.matched = some true
  count : holds.length ≤ 8
  nodup : (holds.map HoldEntry.station).Nodup
  unicast : ∀ e ∈ holds, isUnicast e.station = true
  noHold : line.state.isUp = false → holds = []

theorem lineLawful_iff (s : State) : LineLawful s.line s.jobs.running s.receiver s.holds ↔ LineLaw s ∧ HoldLaw s :=
  ⟨fun h => ⟨⟨h.want, h.job, h.noFrame, h.buffer⟩, h.count, h.nodup, h.unicast, h.noHold⟩,
    fun ⟨⟨h1, h2, h3, h4⟩, h5, h6, h7, h8⟩ => ⟨h1, h2, h3, h4, h5, h6, h7, h8⟩⟩

/-- The laws hold of the second parts if they hold of the first. -/
structure LineKept (line : Line) (running : Option Running) (receiver : Option Frame) (holds : List HoldEntry)
    (line' : Line) (running' : Option Running) (receiver' : Option Frame) (holds' : List HoldEntry) : Prop where
  keeps : LineLawful line running receiver holds → LineLawful line' running' receiver' holds'

/-- An operation that takes `s` to `t` keeps the laws. -/
abbrev KeepsLine (s t : State) : Prop :=
  LineKept s.line s.jobs.running s.receiver s.holds t.line t.jobs.running t.receiver t.holds

/-- Two line controllers that the laws do not tell apart. -/
def Line.SameUse (l l' : Line) : Prop :=
  l'.want = l.want ∧ l'.state.isDown = l.state.isDown ∧ l'.state.isUp = l.state.isUp ∧
    l'.settings.listenOnly = l.settings.listenOnly

theorem Line.SameUse.refl (l : Line) : l.SameUse l := ⟨rfl, rfl, rfl, rfl⟩

theorem SameLine.sameUse {s t : State} (h : SameLine s t) : s.line.SameUse t.line := by
  unfold SameLine at h
  rw [h]
  exact .refl _

namespace LineKept

variable {line line' line'' : Line} {running running' running'' : Option Running} {receiver receiver' receiver'' : Option Frame}
  {holds holds' holds'' : List HoldEntry}

theorem refl (line : Line) (running : Option Running) (receiver : Option Frame) (holds : List HoldEntry) :
    LineKept line running receiver holds line running receiver holds := ⟨id⟩

theorem trans (h : LineKept line running receiver holds line' running' receiver' holds')
    (k : LineKept line' running' receiver' holds' line'' running'' receiver'' holds'') :
    LineKept line running receiver holds line'' running'' receiver'' holds'' := ⟨k.keeps ∘ h.keeps⟩

/-- The laws are kept where the line stays in its use and no job, no frame with a buffer and no hold is new. -/
theorem of_sameUse (hl : line.SameUse line') (hr : running = none → running' = none)
    (hf : ∀ f ∈ receiver', ∃ g ∈ receiver, g.buffer = f.buffer ∧ g.matched = f.matched) (hh : holds' = holds) :
    LineKept line running receiver holds line' running' receiver' holds' := by
  refine ⟨fun l => ?_⟩
  obtain ⟨want, down, up, listen⟩ := hl
  subst hh
  refine ⟨?_, fun h => ?_, fun h => ?_, fun f hm hb => ?_, l.count, l.nodup, l.unicast, fun h => l.noHold (up ▸ h)⟩
  · rw [want, down, l.want]
  · rw [up, listen]
    exact l.job (mt hr h)
  · have none : receiver = none := l.noFrame (down ▸ h)
    cases receiver' with
    | none => rfl
    | some f =>
      obtain ⟨g, hg, -⟩ := hf f rfl
      rw [none] at hg
      cases hg
  · obtain ⟨g, hg, buffer, matched⟩ := hf f hm
    rw [up, ← matched]
    exact l.buffer g hg (buffer ▸ hb)

/-- A change of the line controller alone. -/
theorem of_line (hl : line.SameUse line') : LineKept line running receiver holds line' running receiver holds :=
  .of_sameUse hl id (fun f hf => ⟨f, hf, rfl, rfl⟩) rfl

/-- A change of the RUNNING job alone. -/
theorem of_running (hr : running = none → running' = none) :
    LineKept line running receiver holds line running' receiver holds :=
  .of_sameUse (.refl _) hr (fun f hf => ⟨f, hf, rfl, rfl⟩) rfl

/-- A change of the frame in progress alone. -/
theorem of_receiver (hf : ∀ f ∈ receiver', ∃ g ∈ receiver, g.buffer = f.buffer ∧ g.matched = f.matched) :
    LineKept line running receiver holds line running receiver' holds := .of_sameUse (.refl _) id hf rfl

theorem noFrame : LineKept line running receiver holds line running none holds := .of_receiver fun _ h => nomatch h

/-- A change of the hold list alone, on a line that is UP. -/
theorem of_holds (hu : line.state.isUp = true) (hc : holds.length ≤ 8 → holds'.length ≤ 8)
    (hn : (holds.map HoldEntry.station).Nodup → (holds'.map HoldEntry.station).Nodup)
    (hs : ∀ e ∈ holds', isUnicast e.station = true ∨ ∃ f ∈ holds, f.station = e.station) :
    LineKept line running receiver holds line running receiver holds' :=
  ⟨fun l => ⟨l.want, l.job, l.noFrame, l.buffer, hc l.count, hn l.nodup,
    fun e he => (hs e he).elim id fun ⟨f, hf, same⟩ => same ▸ l.unicast f hf, fun h => absurd hu (by simp [h])⟩⟩

end LineKept

/-- The laws hold of every line state in which nothing goes on that the laws tie to UP. -/
theorem LineLawful.of_idle {line : Line} (h : line.want.isEmpty = line.state.isDown) : LineLawful line none none [] :=
  ⟨h, fun h => absurd rfl h, fun _ => rfl, fun _ h => (nomatch h), Nat.zero_le _, List.nodup_nil,
    fun _ h => absurd h List.not_mem_nil, fun _ => rfl⟩

/-- What changes no line state and begins no job keeps the laws. -/
theorem SameLine.keepsLine {s t : State} (hl : SameLine s t) (hr : s.jobs.running = none → t.jobs.running = none)
    (hf : t.receiver = s.receiver) (hh : t.holds = s.holds) : KeepsLine s t :=
  .of_sameUse hl.sameUse hr (fun f h => ⟨f, hf ▸ h, rfl, rfl⟩) hh

theorem SameBesideStore.keepsLine {s t : State} (h : SameBesideStore s t) : KeepsLine s t := by
  have line := h.sameLine
  obtain ⟨-, -, -, receiver, -, -, jobs, holds, -⟩ := h
  exact line.keepsLine (by rw [jobs]; exact id) receiver holds

theorem SameBesideAttempt.keepsLine {s t : State} (h : SameBesideAttempt s t)
    (hr : s.jobs.running = none → t.jobs.running = none) : KeepsLine s t := by
  obtain ⟨-, -, -, receiver, -, -, -, -, -, -, holds, -, -, -, -, line⟩ := h
  exact line.keepsLine hr receiver holds

/-! ### Jobs -/

theorem leaveUse_keepsLine (b : Option BufferId) (s : State) : KeepsLine s (leaveUse b s) := by
  cases b <;> exact .refl ..

theorem endJob_keepsLine (outcome : JobOutcome) (failing : Option Nat) (s : State) : KeepsLine s (endJob outcome failing s) :=
  (endJob_sameBesideAttempt ..).keepsLine fun _ => endJob_running ..

theorem setRunning_keepsLine {r r' : Running} {s : State} (h : s.jobs.running = some r) : KeepsLine s (setRunning (some r') s) :=
  .of_running fun hn => absurd (h.symm.trans hn) (by simp)

theorem silenceAwait_keepsLine (s : State) : KeepsLine s (silenceAwait s) := by
  unfold silenceAwait
  split
  · split
    · exact setRunning_keepsLine ‹_›
    · exact .refl ..
  · exact .refl ..

theorem endInProgress_keepsLine (p : PendingEnd) (s : State) : KeepsLine s (endInProgress p s) := by
  unfold endInProgress
  split
  · exact .refl ..
  · split
    · exact endJob_keepsLine ..
    · exact (silenceAwait_keepsLine s).trans (endJob_keepsLine ..)
    · exact endJob_keepsLine ..
    · split
      · exact endJob_keepsLine _ _ (dropWaiting s)
      · exact setRunning_keepsLine ‹_›

theorem beginAttempt_keepsLine (r : Running) (b : BufferId) (h : Header) (s : State) : KeepsLine s (beginAttempt r b h s) :=
  (beginAttempt_sameBesideAttempt ..).keepsLine fun hn => (beginAttempt_running r b h s).elim id fun k => k.trans hn

theorem takeAttempt_keepsLine (s : State) : KeepsLine s (takeAttempt s) :=
  (takeAttempt_sameBesideAttempt s).keepsLine fun hn => by rw [takeAttempt_of_settled (settled_of_none hn), hn]

theorem orderReached_keepsLine (fuel : Nat) (s : State) : KeepsLine s (orderReached fuel s) := by
  induction fuel generalizing s with
  | zero => exact .refl ..
  | succ n ih =>
    unfold orderReached
    split
    · exact .refl ..
    · rename_i hr
      simp only
      split
      · exact endJob_keepsLine ..
      · split
        · exact endJob_keepsLine ..
        · split
          · exact setRunning_keepsLine hr
          · split
            · exact (setRunning_keepsLine hr).trans (endJob_keepsLine ..)
            · exact setRunning_keepsLine hr
          · exact (setRunning_keepsLine hr).trans (ih _)
          · exact setRunning_keepsLine hr
          · exact (setRunning_keepsLine hr).trans (endJob_keepsLine ..)

theorem nextOrder_keepsLine (s : State) : KeepsLine s (nextOrder s) := by
  unfold nextOrder
  split
  · exact .refl ..
  · exact (setRunning_keepsLine ‹_›).trans ((orderReached_keepsLine ..).trans (takeAttempt_keepsLine _))

/-! ### Time -/

theorem LineState.isDown_after (n timeout : Nat) (l : LineState) : (l.after n timeout).isDown = l.isDown := by cases l <;> rfl

theorem LineState.isUp_after (n timeout : Nat) (l : LineState) : (l.after n timeout).isUp = l.isUp := by cases l <;> rfl

theorem lineTime_keepsLine (n : Nat) (s : State) : KeepsLine s (lineTime n s) := by
  have line : LineKept s.line s.jobs.running s.receiver s.holds
      (lineTime n s).line (lineTime n s).jobs.running s.receiver s.holds :=
    .of_sameUse ⟨rfl, LineState.isDown_after .., LineState.isUp_after .., rfl⟩ (fun h => by rw [lineTime_jobs, h]; rfl)
      (fun f h => ⟨f, h, rfl, rfl⟩) rfl
  have stations : (s.holds.map fun e => { e with remaining := e.remaining - n }).map HoldEntry.station =
      s.holds.map HoldEntry.station := by simp
  refine line.trans ⟨fun l => ⟨l.want, l.job, l.noFrame, l.buffer, ?_, ?_, fun e he => ?_, fun h => ?_⟩⟩
  · rw [lineTime_holds, List.length_map]
    exact l.count
  · rw [lineTime_holds, stations]
    exact l.nodup
  · obtain ⟨f, hf, rfl⟩ := List.mem_map.mp he
    exact l.unicast f hf
  · rw [lineTime_holds, l.noHold h]
    rfl

theorem restartIdle_keepsLine (low : Nat) (s : State) : KeepsLine s (restartIdle low s) := by
  unfold restartIdle
  split
  · exact .refl ..
  · exact .of_line ⟨rfl, rfl, rfl, rfl⟩

theorem reportCharacter_keepsLine (s : State) : KeepsLine s (reportCharacter s) := by
  unfold reportCharacter
  split
  · rename_i hl
    exact .of_line ⟨rfl, by rw [hl]; rfl, by rw [hl]; rfl, rfl⟩
  · exact .refl ..

theorem characterTime_keepsLine (low : Nat) (s : State) : KeepsLine s (characterTime low s) :=
  (lineTime_keepsLine ..).trans (restartIdle_keepsLine ..)

/-! ### The line controller -/

theorem setLineState_keepsLine {l : LineState} {s : State} (hd : l.isDown = s.line.state.isDown) (hu : l.isUp = s.line.state.isUp) :
    KeepsLine s (setLineState l s) := .of_line ⟨rfl, hd, hu, rfl⟩

theorem abandonReception_keepsLine (s : State) : KeepsLine s (abandonReception s) := by
  rw [abandonReception_eq]
  exact .noFrame

theorem LineLawful.quiet {line : Line} {running : Option Running} {receiver : Option Frame} {holds : List HoldEntry}
    (h : LineLawful line running receiver holds) (hu : line.state.isUp = false) : running = none ∧ holds = [] :=
  ⟨by_contra fun hr => absurd (h.job hr).1 (by simp [hu]), h.noHold hu⟩

/-- Once the line state has been left, no job runs, no frame is in progress and no station is held (R63, R82). -/
theorem leaveState_idle {s : State} (quiet : s.line.state.isUp = false → s.jobs.running = none ∧ s.holds = [])
    (noFrame : s.line.state.isDown = true → s.receiver = none) :
    (leaveState s).jobs.running = none ∧ (leaveState s).receiver = none ∧ (leaveState s).holds = [] := by
  by_cases hu : s.line.state.isUp = true
  · rw [leaveState_of_up hu]
    obtain ⟨left, -⟩ := leaveUp_left s
    rw [left]
    exact ⟨rfl, rfl, rfl⟩
  · obtain ⟨running, holds⟩ := quiet (by simpa using hu)
    by_cases hd : s.line.state = .down
    · have same : leaveState s = s := by simp [leaveState, hd]
      rw [same]
      exact ⟨running, noFrame (by rw [hd]; rfl), holds⟩
    · rw [leaveState_of_not_up hd (by simpa using hu), abandonReception_eq]
      exact ⟨running, rfl, holds⟩

theorem leaveState_sameLine (s : State) : SameLine s (leaveState s) := by
  unfold leaveState
  split
  · exact .refl s
  · exact .of_eq (by rw [abandonReception_eq])
  · exact .of_eq (by rw [abandonReception_eq])
  · exact leaveUp_line s

theorem LineState.isDown_iff {l : LineState} : l.isDown = true ↔ l = .down := by cases l <;> simp [LineState.isDown]

/-- The line goes DOWN where nobody wants it, whatever the want set was before (R65). -/
theorem goDown_lawful {s : State} (quiet : s.line.state.isUp = false → s.jobs.running = none ∧ s.holds = [])
    (noFrame : s.line.state.isDown = true → s.receiver = none) (hw : s.line.want.isEmpty = true) :
    LineLawful (goDown s).line (goDown s).jobs.running (goDown s).receiver (goDown s).holds := by
  obtain ⟨running, receiver, holds⟩ := leaveState_idle quiet noFrame
  have want : (leaveState s).line.want = s.line.want := (leaveState_sameLine s).sameUse.1
  show LineLawful _ (leaveState s).jobs.running (leaveState s).receiver (leaveState s).holds
  rw [running, receiver, holds]
  exact .of_idle ((congrArg _ want).trans hw)

theorem goSeek_keepsLine {s : State} (hd : s.line.state ≠ .down) : KeepsLine s (goSeek s) := by
  refine ⟨fun h => ?_⟩
  obtain ⟨running, receiver, holds⟩ := leaveState_idle h.quiet h.noFrame
  have want : (leaveState s).line.want = s.line.want := (leaveState_sameLine s).sameUse.1
  have in_use : s.line.want.isEmpty = false := h.want.trans (by simpa [← LineState.isDown_iff] using hd)
  show LineLawful _ (leaveState s).jobs.running (leaveState s).receiver (leaveState s).holds
  rw [running, receiver, holds]
  exact .of_idle ((congrArg _ want).trans in_use)

/-- With nothing going on the line may enter SEEK or UP for a want set that is not empty (R65). -/
theorem lineEntry_lawful {s : State} (hr : s.jobs.running = none) (hf : s.receiver = none) (hh : s.holds = [])
    (hw : s.line.want.isEmpty = false) :
    LineLawful (lineEntry s).line (lineEntry s).jobs.running (lineEntry s).receiver (lineEntry s).holds := by
  unfold lineEntry
  simp only
  split
  · simp only [enterUp, raiseAll_line, raiseAll_jobs, raiseAll_receiver, raiseAll_holds, hr, hf, hh]
    exact .of_idle hw
  · simp only [setLineState_line, setLineState_jobs, setLineState_receiver, setLineState_holds, hr, hf, hh]
    exact .of_idle hw

theorem MasterSet.isEmpty_erase {ms : MasterSet} (h : ms.isEmpty = true) (m : Master) : (ms.erase m).isEmpty = true := by
  rw [MasterSet.eq_empty h]
  cases m <;> rfl

theorem leaveWantSet_keepsLine (m : Master) (s : State) : KeepsLine s (leaveWantSet m s) := by
  refine ⟨fun h => ?_⟩
  unfold leaveWantSet
  simp only
  split
  · rename_i hw
    rw [Bool.and_eq_true] at hw
    exact goDown_lawful h.quiet h.noFrame hw.1
  · rename_i hw
    refine ⟨?_, h.job, h.noFrame, h.buffer, h.count, h.nodup, h.unicast, h.noHold⟩
    cases hd : s.line.state.isDown with
    | true => exact MasterSet.isEmpty_erase (h.want.trans hd) m
    | false => simpa [hd] using hw

theorem wantLine_keepsLine (m : Master) (s : State) : KeepsLine s (wantLine m s).state := by
  refine ⟨fun h => ?_⟩
  unfold wantLine
  simp only
  split
  · rename_i hd
    rw [Bool.and_eq_true] at hd
    have not_up : s.line.state.isUp = false := by rw [LineState.isDown_iff.mp hd.2]; rfl
    obtain ⟨running, holds⟩ := h.quiet not_up
    exact lineEntry_lawful running (h.noFrame hd.2) holds (MasterSet.isEmpty_insert ..)
  · rename_i hd
    have in_use : s.line.state.isDown = false := by simpa [h.want] using hd
    exact ⟨(MasterSet.isEmpty_insert ..).trans in_use.symm, h.job, h.noFrame, h.buffer, h.count, h.nodup, h.unicast, h.noHold⟩

/-- A restart may put the record of a running job's line out of range, but leaves no job running (R70, R117). -/
theorem lineSet_keepsLine (m : Master) (record : SettingsBytes) (s : State) : KeepsLine s (lineSet m record s).state := by
  refine ⟨fun h => ?_⟩
  unfold lineSet
  split
  · exact h
  · rename_i r _
    split
    · unfold applySettings
      simp only
      split
      · rename_i hd
        have not_up : s.line.state.isUp = false := by rw [LineState.isDown_iff.mp hd]; rfl
        exact ⟨h.want, fun hr => absurd (h.quiet not_up).1 hr, h.noFrame, h.buffer, h.count, h.nodup, h.unicast, h.noHold⟩
      · rename_i hd
        have in_use : s.line.want.isEmpty = false := h.want.trans (by simpa using hd)
        let replaced := raiseAll .line { s with line := { s.line with settings := r } }
        obtain ⟨running, receiver, holds⟩ := leaveState_idle (s := replaced) h.quiet h.noFrame
        have want : (leaveState replaced).line.want = s.line.want := (leaveState_sameLine replaced).sameUse.1
        exact lineEntry_lawful (s := goDown replaced) running receiver holds ((congrArg _ want).trans in_use)
    · exact h

theorem enterQualify_keepsLine (c : RateCode) {s : State} {run : List Rat} (hl : s.line.state = .seek run) :
    KeepsLine s (enterQualify c s) := by
  refine (abandonReception_keepsLine s).trans (setLineState_keepsLine ?_ ?_)
  · rw [abandonReception_eq]
    simp only [hl]
    rfl
  · rw [abandonReception_eq]
    simp only [hl]
    rfl

theorem detect_keepsLine (runs : List Rat) (s : State) : KeepsLine s (detect runs s) := by
  unfold detect
  split
  · rename_i hl
    have stays (run : List Rat) (u : State) (hu : SameLine s u) : KeepsLine u (setLineState (.seek run) u) := by
      obtain ⟨-, down, up, -⟩ := hu.sameUse
      exact setLineState_keepsLine (by rw [down, hl]; rfl) (by rw [up, hl]; rfl)
    split
    · exact stays _ _ (.refl s)
    · simp only
      split
      · unfold measure
        simp only
        split
        · exact enterQualify_keepsLine _ hl
        · split
          · exact stays _ _ (.refl s)
          · refine LineKept.trans ?_ (stays [] (raiseAll .line (latchAll _ s)) rfl)
            exact .of_line (.refl _)
      · exact stays _ _ (.refl s)
  · exact .refl ..

/-- The second good frame in QUALIFY brings UP, where nothing has gone on yet (R79). -/
theorem enterUp_keepsLine (code : RateCode) {s : State} (hd : s.line.state.isDown = false) (hu : s.line.state.isUp = false)
    (hf : s.receiver = none) : KeepsLine s (enterUp code s) := by
  refine ⟨fun h => ?_⟩
  obtain ⟨running, holds⟩ := h.quiet hu
  simp only [enterUp, raiseAll_line, raiseAll_jobs, raiseAll_receiver, raiseAll_holds, running, holds, hf]
  exact .of_idle (h.want.trans hd)

theorem reportFrame_keepsLine (good : Bool) (s : State) : KeepsLine s (reportFrame good s) := by
  unfold reportFrame
  split
  · exact .refl ..
  · exact .refl ..
  · rename_i hl
    split
    · split
      · exact setLineState_keepsLine (by rw [hl]; rfl) (by rw [hl]; rfl)
      · refine (abandonReception_keepsLine s).trans (enterUp_keepsLine _ ?_ ?_ (abandonReception_receiver s))
        · rw [abandonReception_eq, hl]
          rfl
        · rw [abandonReception_eq, hl]
          rfl
    · exact goSeek_keepsLine (by simp [hl])
  · rename_i hl
    have stays (bad : Nat) (silence : Nat) : KeepsLine s (setLineState (.up silence bad) s) :=
      setLineState_keepsLine (by rw [hl]; rfl) (by rw [hl]; rfl)
    split
    · exact .refl ..
    · split
      · exact stays ..
      · split
        · exact stays ..
        · exact (stays _ _).trans (goSeek_keepsLine (by simp))

/-! ### The hold list -/

theorem leastEntry_mem {holds : List HoldEntry} {e : HoldEntry} (h : leastEntry holds = some e) : e ∈ holds := by
  induction holds generalizing e with
  | nil => cases h
  | cons f rest ih =>
    unfold leastEntry at h
    split at h
    · cases h
      exact List.mem_cons_self ..
    · rename_i g hg
      split at h <;> cases h
      · exact List.mem_cons_self ..
      · exact List.mem_cons_of_mem _ (ih hg)

theorem leastEntry_eq_none {holds : List HoldEntry} (h : leastEntry holds = none) : holds = [] := by
  cases holds with
  | nil => rfl
  | cons f rest =>
    unfold leastEntry at h
    split at h
    · cases h
    · split at h <;> cases h

/-- A station that is not held may be added where there is room for it. -/
theorem nodup_append_station {holds : List HoldEntry} {station : Byte} (time : Nat) (hn : (holds.map HoldEntry.station).Nodup)
    (hh : ∀ e ∈ holds, e.station ≠ station) : ((holds ++ [(⟨station, time⟩ : HoldEntry)]).map HoldEntry.station).Nodup := by
  rw [List.map_append, List.map_singleton, ← List.concat_eq_append]
  refine hn.concat fun h => ?_
  obtain ⟨e, he, same⟩ := List.mem_map.mp h
  exact hh e he same

/-- A HOLD from a unicast station keeps the law of the hold list (R142, R143). -/
theorem takeHold_kept {station : Byte} (time : Nat) {line : Line} (running : Option Running) (receiver : Option Frame)
    (holds : List HoldEntry) (hu : line.state.isUp = true) (hs : isUnicast station = true) :
    LineKept line running receiver holds line running receiver (takeHold station time holds) := by
  have added {rest : List HoldEntry} (hr : rest.Sublist holds) :
      ∀ e ∈ rest ++ [⟨station, time⟩], isUnicast e.station = true ∨ ∃ f ∈ holds, f.station = e.station := by
    intro e he
    rcases List.mem_append.mp he with he | he
    · exact .inr ⟨e, hr.subset he, rfl⟩
    · obtain rfl := List.mem_singleton.mp he
      exact .inl hs
  unfold takeHold
  split
  · have stations : (holds.map fun e => if e.station = station then { e with remaining := time } else e).map HoldEntry.station =
        holds.map HoldEntry.station := by
      rw [List.map_map]
      refine List.map_congr_left fun e _ => ?_
      simp only [Function.comp]
      split <;> rfl
    refine .of_holds hu (by simp) (by rw [stations]; exact id) fun e he => .inr ?_
    have mem := List.mem_map_of_mem (f := HoldEntry.station) he
    rw [stations] at mem
    exact List.mem_map.mp mem
  · rename_i hheld
    have new : ∀ e ∈ holds, e.station ≠ station := by simpa [isHeld] using hheld
    split
    · rename_i room
      refine .of_holds hu (fun _ => ?_) (fun hn => nodup_append_station time hn new) (added (.refl _))
      rw [List.length_append]
      exact room
    · split
      · rename_i f hf
        have sub : (holds.erase f).Sublist holds := List.erase_sublist
        refine .of_holds hu (fun hc => ?_) (fun hn => ?_) (added sub)
        · have shorter := List.length_erase_of_mem (leastEntry_mem hf)
          have one : 0 < holds.length := List.length_pos_of_mem (leastEntry_mem hf)
          rw [List.length_append, shorter, List.length_singleton]
          omega
        · exact nodup_append_station time (hn.sublist (sub.map _)) fun e he => new e (sub.subset he)
      · rename_i full _ hn
        rw [leastEntry_eq_none hn] at full
        exact absurd (by decide) full

/-- Entries removed from the hold list, by a RESUME or as they expire (R144, R145). -/
theorem filter_holds_kept (keep : HoldEntry → Bool) (line : Line) (running : Option Running) (receiver : Option Frame)
    (holds : List HoldEntry) : LineKept line running receiver holds line running receiver (holds.filter keep) :=
  ⟨fun l => ⟨l.want, l.job, l.noFrame, l.buffer, (List.length_filter_le ..).trans l.count,
    l.nodup.sublist (List.filter_sublist.map _), fun e he => l.unicast e (List.mem_of_mem_filter he),
    fun h => by rw [l.noHold h]; rfl⟩⟩

/-! ### Delivery -/

theorem deliverTo_keepsLine (targets : MasterSet) (h : Header) (b : Option BufferId) (late : Bool) (s : State) :
    KeepsLine s (deliverTo targets h b late s) := by
  cases b with
  | none => exact .refl ..
  | some b =>
    unfold deliverTo fanOut
    simp only
    split <;> exact .refl ..

theorem loopBackCopy_keepsLine (sender : Master) (copy : List Byte) (s : State) : KeepsLine s (loopBackCopy sender copy s) := by
  unfold loopBackCopy
  simp only
  split
  · exact .refl ..
  · unfold fanOut
    simp only
    split <;> exact .refl ..

theorem capture_keepsLine {r : Running} {s : State} (hr : s.jobs.running = some r) (outcome : AwaitOutcome) (b : Option BufferId) :
    KeepsLine s (capture r outcome b s) := by
  unfold capture
  refine LineKept.trans ?_ (nextOrder_keepsLine _)
  cases b with
  | none =>
    exact (leaveUse_keepsLine r.job.reply (noBufferAt _ s)).trans (setRunning_keepsLine (r := r) (by rw [leaveUse_jobs]; exact hr))
  | some b =>
    exact (leaveUse_keepsLine r.job.reply { s with store := s.store.setState b (.inJob r.job.master r.job.tag) }).trans
      (setRunning_keepsLine (r := r) (by rw [leaveUse_jobs]; exact hr))

theorem running_of_captures {h : Header} {s : State} {r : Running} (hc : captures h s = some r) : s.jobs.running = some r := by
  unfold captures at hc
  split at hc
  · rename_i hr
    split at hc
    · split at hc <;> cases hc
      exact hr
    · cases hc
  · cases hc

theorem deliverReply_keepsLine (outcome : AwaitOutcome) (h : Header) (b : Option BufferId) (s : State) :
    KeepsLine s (deliverReply outcome h b s) := by
  unfold deliverReply
  split
  · rename_i hc
    exact capture_keepsLine (running_of_captures hc) ..
  · simp only
    split
    · exact deliverTo_keepsLine ..
    · split
      · exact deliverTo_keepsLine ..
      · rename_i m _ _ _ _
        split
        · exact deliverTo_keepsLine (.singleton m) h b true
            { s with delivery := { s.delivery with late := s.delivery.late.set m none } }
        · exact deliverTo_keepsLine ..

theorem deliverRequest_keepsLine (h : Header) (b : Option BufferId) (s : State) : KeepsLine s (deliverRequest h b s) := by
  unfold deliverRequest
  simp only
  split
  · exact leaveUse_keepsLine ..
  · split
    · split <;> exact .refl ..
    · split
      · exact deliverTo_keepsLine ..
      · split <;> exact .refl ..

/-- The delivery decision for a frame from a unicast station, on a line that is UP (R91). -/
theorem deliver_keepsLine {h : Header} (b : Option BufferId) {s : State} (hu : s.line.state.isUp = true)
    (hs : isUnicast h.source = true) : KeepsLine s (deliver h b s) := by
  unfold deliver
  split
  · simp only [leaveUse_line, leaveUse_jobs, leaveUse_receiver]
    exact takeHold_kept _ _ _ _ hu hs
  · simp only [leaveUse_line, leaveUse_jobs, leaveUse_receiver]
    exact filter_holds_kept ..
  · exact deliverReply_keepsLine ..
  · exact deliverReply_keepsLine ..
  · split
    · exact deliverRequest_keepsLine ..
    · exact deliverTo_keepsLine ..
  · exact deliverTo_keepsLine ..
  · exact leaveUse_keepsLine ..

/-! ### The frame in progress -/

/-- An address character on a line in use begins a frame, with a buffer only in UP after a match (R58). -/
theorem startFrame_keepsLine (data : Byte) (stop : Bool) {s : State} (hd : s.line.state ≠ .down) :
    KeepsLine s (startFrame data stop s) := by
  have in_use : s.line.state.isDown ≠ true := mt LineState.isDown_iff.mp hd
  have bare {f : Frame} (hf : f.buffer = none) :
      LineKept s.line s.jobs.running s.receiver s.holds s.line s.jobs.running (some f) s.holds :=
    ⟨fun l => ⟨l.want, l.job, fun h => absurd h in_use, fun g hg hb => absurd (by cases hg; exact hf) hb,
      l.count, l.nodup, l.unicast, l.noHold⟩⟩
  unfold startFrame
  simp only
  split
  · rename_i hu
    split
    · split
      · exact ⟨fun l => ⟨l.want, l.job, fun h => absurd h in_use, fun g hg _ => by cases hg; exact ⟨hu, rfl⟩,
          l.count, l.nodup, l.unicast, l.noHold⟩⟩
      · exact bare rfl
    · exact bare rfl
  · exact bare rfl

theorem endBadFrame_keepsLine (e : ReceiveError) (f : Frame) (s : State) : KeepsLine s (endBadFrame e f s) :=
  leaveUse_keepsLine f.buffer (countAll e.counter s)

theorem takeAddress_keepsLine (data : Byte) (stop : Bool) {s : State} (hd : s.line.state ≠ .down) :
    KeepsLine s (takeAddress data stop s) := by
  unfold takeAddress
  split
  · exact startFrame_keepsLine data stop hd
  · rename_i f _
    have cut : KeepsLine s (endBadFrame .framing f { s with receiver := none }) :=
      LineKept.noFrame.trans (endBadFrame_keepsLine .framing f { s with receiver := none })
    have line : (endBadFrame .framing f { s with receiver := none }).line = s.line := leaveUse_line ..
    exact cut.trans ((startFrame_keepsLine data stop (by rw [line]; exact hd)).trans (reportFrame_keepsLine ..))

theorem takeBody_keepsLine (data : Byte) (stop : Bool) (s : State) : KeepsLine s (takeBody data stop s) := by
  unfold takeBody
  split
  · exact .refl ..
  · rename_i f hf
    obtain ⟨g, extended, -, -, matched, buffer, -⟩ := extendFrame_extended data stop f s
    rw [extended]
    exact .of_receiver fun h hg => by cases hg; exact ⟨f, hf, buffer.symm, matched.symm⟩

/-- A character keeps the laws, if taking it keeps them on a line in use. -/
theorem receiveCharacter_keepsLine {take : State → State} (ht : ∀ {s}, s.line.state ≠ .down → KeepsLine s (take s)) (low : Nat)
    (runs : List Rat) (s : State) : KeepsLine s (receiveCharacter take low runs s) := by
  unfold receiveCharacter
  split
  · exact .refl ..
  · rename_i hd
    have in_use : s.line.state ≠ .down := mt LineState.isDown_iff.mpr hd
    have arrives : KeepsLine s (characterArrives low s) := (characterTime_keepsLine low s).trans (reportCharacter_keepsLine _)
    have still_in_use : (characterArrives low s).line.state ≠ .down := by
      have same : (characterTime low s).line.state ≠ .down := by
        rw [characterTime_of_in_use in_use]
        exact lineTime_in_use in_use _
      unfold characterArrives reportCharacter
      split
      · simp
      · exact same
    unfold hearCharacter
    split
    · simp only
      split
      · exact arrives.trans ((ht still_in_use).trans (detect_keepsLine ..))
      · exact arrives.trans (ht still_in_use)
    · exact restartIdle_keepsLine ..
    · exact characterTime_keepsLine ..

/-- The source of a good frame is a unicast station (R60). -/
theorem isUnicast_source_of_good {f : Frame} (h : frameError f = none) : isUnicast (headerOf f.header).source = true := by
  by_contra hs
  unfold frameError at h
  simp only [Bool.not_eq_true] at hs
  simp only [hs, Bool.not_false, if_true] at h
  (repeat' split at h) <;> cases h

theorem endFrame_keepsLine (f : Frame) (s : State) : KeepsLine s (endFrame f s) := by
  unfold endFrame
  split
  · exact (endBadFrame_keepsLine ..).trans (reportFrame_keepsLine ..)
  · rename_i he
    refine LineKept.trans ?_ (reportFrame_keepsLine true _)
    split
    · rename_i hu
      rw [Bool.and_eq_true] at hu
      exact deliver_keepsLine _ hu.1 (isUnicast_source_of_good he)
    · exact .refl ..

theorem frameEnd_keepsLine {s t : State} (h : exec .frameEnd s = .next t) : KeepsLine s t := by
  have began : KeepsLine s (attemptBeforeFrameEnd s) := by
    unfold attemptBeforeFrameEnd
    split
    · exact .refl ..
    · exact takeAttempt_keepsLine s
  simp only [exec, execFrameEnd] at h
  split at h <;> cases h
  · exact .refl ..
  · have waited : KeepsLine s (untilEndGap (attemptBeforeFrameEnd s)) := began.trans (lineTime_keepsLine ..)
    exact waited.trans (LineKept.noFrame.trans (endFrame_keepsLine _ { untilEndGap _ with receiver := none }))

/-! ### The transmitter and the timers -/

theorem sendAttempt_keepsLine (s : State) : KeepsLine s (sendAttempt s) := by
  unfold sendAttempt
  split
  · split
    · exact lineTime_keepsLine ..
    · exact .refl ..
  · exact .refl ..

theorem sendBusy_keepsLine (s : State) : KeepsLine s (sendBusy s) := by
  unfold sendBusy
  split
  · split
    · exact lineTime_keepsLine ..
    · exact .refl ..
  · exact .refl ..

theorem characterSent_keepsLine (echo : BitVec 11) (low : Nat) (s : State) : KeepsLine s (characterSent echo low s) := by
  have leaves (n : Nat) : KeepsLine s (characterLeaves n s) :=
    (lineTime_keepsLine ..).trans ((restartIdle_keepsLine ..).trans (reportCharacter_keepsLine _))
  unfold characterSent
  split
  · unfold finishCharacter
    split
    · exact leaves _
    · split <;> exact leaves _
  · exact .refl ..

theorem attemptCollided_keepsLine {r : Running} {s : State} (hr : s.jobs.running = some r) : KeepsLine s (attemptCollided r s) := by
  unfold attemptCollided
  split
  · exact endJob_keepsLine ..
  · split
    · simp only
      split
      · exact (setRunning_keepsLine hr).trans (beginAttempt_keepsLine ..)
      · exact .refl ..
    · exact endJob_keepsLine ..

theorem attemptCompleted_keepsLine {r : Running} (a : Attempt) {s : State} (hr : s.jobs.running = some r) :
    KeepsLine s (attemptCompleted r a s) := by
  have copied (r' : Running) : KeepsLine s
      (if a.loopBack then loopBackCopy r.job.master a.copy (setRunning (some r') s) else setRunning (some r') s) := by
    split
    · exact (setRunning_keepsLine hr).trans (loopBackCopy_keepsLine ..)
    · exact setRunning_keepsLine hr
  unfold attemptCompleted
  simp only
  split
  · exact (copied _).trans (endJob_keepsLine ..)
  · exact (copied _).trans (nextOrder_keepsLine _)

theorem turnaroundEnds_keepsLine (s : State) : KeepsLine s (turnaroundEnds s) := by
  unfold turnaroundEnds
  split
  · rename_i f left _
    refine (lineTime_keepsLine left s).trans ?_
    unfold releaseDriver
    split
    · exact .refl ..
    · split
      · exact .refl ..
      · split
        · exact .refl ..
        · rename_i hr
          split
          · exact attemptCollided_keepsLine hr
          · exact attemptCompleted_keepsLine _ hr
  · exact .refl ..

/-- A grant makes a job RUNNING only in UP with listen-only off (R117). -/
theorem grant_keepsLine {s t : State} (h : exec .grant s = .next t) : KeepsLine s t := by
  simp only [exec, execGrant] at h
  split at h
  · rename_i granted
    simp only [Bool.and_eq_true, Bool.not_eq_true'] at granted
    split at h <;> cases h
    · rename_i m j rest _
      unfold grantTo
      refine LineKept.trans ?_ (orderReached_keepsLine ..)
      exact ⟨fun l => ⟨l.want, fun _ => ⟨granted.1.2, granted.2⟩, l.noFrame, l.buffer, l.count, l.nodup, l.unicast, l.noHold⟩⟩
    · exact .refl ..
  · cases h
    exact .refl ..

theorem responseExpires_keepsLine (s : State) : KeepsLine s (responseExpires s) := by
  unfold responseExpires
  split
  · exact (lineTime_keepsLine ..).trans ((silenceAwait_keepsLine _).trans (nextOrder_keepsLine _))
  · exact .refl ..

theorem waitExpires_keepsLine (s : State) : KeepsLine s (waitExpires s) := by
  unfold waitExpires
  split
  · exact (lineTime_keepsLine ..).trans (nextOrder_keepsLine _)
  · exact .refl ..

theorem tenureExpires_keepsLine (s : State) : KeepsLine s (tenureExpires s) := by
  unfold tenureExpires
  split
  · exact (lineTime_keepsLine ..).trans (endInProgress_keepsLine ..)
  · exact .refl ..

theorem timeOut_keepsLine {s : State} (hd : s.line.state ≠ .down) : KeepsLine s (timeOut s) := by
  have latched : KeepsLine s (latchAll (fun f => { f with silent := true }) s) := .of_line ⟨rfl, rfl, rfl, rfl⟩
  unfold timeOut
  simp only
  split
  · exact latched.trans (goSeek_keepsLine hd)
  · exact latched.trans (reportCharacter_keepsLine _)

theorem silenceExpires_keepsLine (s : State) : KeepsLine s (silenceExpires s) := by
  unfold silenceExpires
  split
  · rename_i hl
    exact (lineTime_keepsLine ..).trans (timeOut_keepsLine (lineTime_in_use (by simp [hl]) _))
  · exact .refl ..

theorem windowExpires_keepsLine (s : State) : KeepsLine s (windowExpires s) := by
  unfold windowExpires
  split
  · rename_i hl
    exact (lineTime_keepsLine ..).trans (goSeek_keepsLine (lineTime_in_use (by simp [hl]) _))
  · exact .refl ..

theorem holdExpires_keepsLine (s : State) : KeepsLine s (holdExpires s) := by
  unfold holdExpires
  split
  · exact .refl ..
  · rename_i e _
    exact (lineTime_keepsLine e.remaining s).trans (filter_holds_kept ..)

/-! ### Commands -/

theorem writeWords_keepsLine (b : BufferId) (offset : Nat) (data : List Byte) (ks : List Nat) (s : State) :
    KeepsLine s (writeWords b offset data ks s) := by
  have one (k : Nat) (u : State) : KeepsLine u (writeOneWord b k offset data u) := by
    unfold writeOneWord
    simp only
    split
    · exact .refl ..
    · split <;> exact (readWord_sameBesideStore (wordOf b k) u).keepsLine
  induction ks generalizing s with
  | nil => exact .refl ..
  | cons k rest ih => exact (one k s).trans (ih _)

theorem submit_keepsLine (m : Master) (count : Byte) (orders : List OrderBytes) (s : State) :
    KeepsLine s (submit m count orders s).state := by
  have read (bs : List BufferId) : KeepsLine s (readHeaders bs s).2 := (readHeaders_sameBesideStore bs s).keepsLine
  unfold submit
  simp only
  split
  · exact .refl ..
  · split
    · exact .refl ..
    · split
      · exact .refl ..
      · split
        · exact .refl ..
        · split
          · exact read _
          · split <;> exact read _

theorem cancel_keepsLine (m : Master) (tag : Byte) (s : State) : KeepsLine s (cancel m tag s).state := by
  unfold cancel
  split
  · exact .refl ..
  · split
    · split
      · exact endInProgress_keepsLine ..
      · exact .refl ..
    · exact .refl ..

theorem portReset_keepsLine (m : Master) (s : State) : KeepsLine s (portReset m s).state := by
  have jobs : KeepsLine s (resetJobs m s) := by
    rw [resetJobs_eq]
    exact .of_running fun h => by simp [h]
  have store (u : State) : KeepsLine u (resetStore m u) := by
    unfold resetStore
    simp only
    split
    · exact .noFrame
    · exact .refl ..
  have line (u : State) : KeepsLine u (resetLine m u) :=
    (leaveWantSet_keepsLine m u).trans (.of_line ⟨rfl, rfl, rfl, rfl⟩)
  exact jobs.trans ((store (setTable _ (resetDelivery m (resetJobs m s)))).trans (line _))

/-- The effect of every command keeps the laws. -/
theorem effect_keepsLine {i : Instr} {e : State → Reply} (h : effectOf i = some e) (s : State) : KeepsLine s (e s).state := by
  cases i <;> simp only [effectOf, Option.some.injEq, reduceCtorEq] at h <;> subst h
  case wantLine m => exact wantLine_keepsLine m s
  case unwantLine m => exact leaveWantSet_keepsLine m s
  case lineSet m r => exact lineSet_keepsLine m r s
  case lineState => exact .of_line ⟨rfl, rfl, rfl, rfl⟩
  case relearn m =>
    unfold relearn
    split
    · rename_i hm
      simp only [Bool.and_eq_true, Bool.not_eq_true'] at hm
      exact goSeek_keepsLine fun hd => absurd hm.2 (by simp [LineState.isDown_iff.mpr hd])
    · exact .refl ..
  case portReset m => exact portReset_keepsLine m s
  case submit m c o => exact submit_keepsLine m c o s
  case cancel m t => exact cancel_keepsLine m t s
  case write m n o c d =>
    unfold write
    split
    · exact .refl ..
    · split
      · exact .refl ..
      · split
        · exact .refl ..
        · split
          · exact .refl ..
          · exact writeWords_keepsLine ..
  case read m n o c =>
    unfold read
    split
    · exact .refl ..
    · simp only
      split
      · exact .refl ..
      · split
        · exact .refl ..
        · exact (readWords_sameBesideStore ..).keepsLine
  case alloc =>
    unfold alloc
    (repeat' split) <;> exact .refl ..
  case free =>
    unfold free
    simp only
    (repeat' split) <;> exact .refl ..
  case adopt =>
    unfold adopt
    (repeat' split) <;> exact .refl ..
  case scrub =>
    unfold scrub
    (repeat' split) <;> exact .refl ..
  case takeCompletion =>
    unfold takeCompletion
    split <;> exact .refl ..
  case takeDelivery =>
    unfold takeDelivery
    split <;> exact .refl ..
  case claim =>
    unfold claim
    (repeat' split) <;> exact .refl ..
  case drop =>
    unfold drop
    (repeat' split) <;> exact .refl ..
  case join =>
    unfold join
    (repeat' split) <;> exact .refl ..
  case leave =>
    unfold leave
    simp only
    (repeat' split) <;> exact .refl ..
  case portSet =>
    unfold portSet
    split <;> exact .refl ..
  case tableRead =>
    unfold tableRead
    (repeat' split) <;> exact .refl ..
  case notice =>
    unfold notice
    split <;> exact .refl ..
  case release =>
    unfold release
    (repeat' split) <;> exact .refl ..
  case mask =>
    unfold mask
    split <;> exact .refl ..
  all_goals exact .refl ..

/-! ### Every event and every step -/

/-- Every event keeps the laws; a reset leaves the line DOWN with nothing going on. -/
theorem event_keepsLine {i : Instr} {s t : State} (hi : effectOf i = none) (hb : ∀ m b, i ≠ .byteArrives m b)
    (h : exec i s = .next t) : KeepsLine s t := by
  have attempt := takeAttempt_keepsLine s
  cases i <;> simp only [effectOf, reduceCtorEq] at hi
  case powerOn => cases h; exact ⟨fun _ => .of_idle rfl⟩
  case startUpClearEnd =>
    cases h
    split
    · exact ⟨fun _ => .of_idle rfl⟩
    · exact .refl ..
  case storeUpset =>
    simp only [exec, execStoreUpset] at h
    split at h <;> cases h
    unfold upsetWord
    simp only
    (repeat' split) <;> exact .refl ..
  case patrolVisit =>
    cases h
    unfold patrol
    simp only
    split
    · exact .refl ..
    · split
      · exact .refl ..
      · exact (readWord_sameBesideStore s.store.patrolIndex s).keepsLine
  case csFalls =>
    cases h
    split <;> exact .refl ..
  case csRises => cases h; exact .refl ..
  case unknownCommand =>
    cases h
    split <;> exact .refl ..
  case addressCharacter data stop runs low =>
    cases h
    exact attempt.trans (receiveCharacter_keepsLine (takeAddress_keepsLine data stop) ..)
  case bodyCharacter data stop runs low =>
    cases h
    exact attempt.trans (receiveCharacter_keepsLine (fun _ => takeBody_keepsLine data stop _) ..)
  case frameEnd => exact frameEnd_keepsLine h
  case attemptBeginsSending => cases h; exact attempt.trans (sendAttempt_keepsLine _)
  case automaticBusyStart => cases h; exact attempt.trans (sendBusy_keepsLine _)
  case characterSent => cases h; exact attempt.trans (characterSent_keepsLine ..)
  case deRelease => cases h; exact attempt.trans (turnaroundEnds_keepsLine _)
  case grant => exact grant_keepsLine h
  case responseTimerExpiry => cases h; exact attempt.trans (responseExpires_keepsLine _)
  case waitTimerExpiry => cases h; exact attempt.trans (waitExpires_keepsLine _)
  case tenureTimerExpiry => cases h; exact attempt.trans (tenureExpires_keepsLine _)
  case silenceTimeout => cases h; exact attempt.trans (silenceExpires_keepsLine _)
  case qualificationWindowExpiry => cases h; exact attempt.trans (windowExpires_keepsLine _)
  case holdEntryExpiry => cases h; exact attempt.trans (holdExpires_keepsLine _)
  case syncEdge =>
    cases h
    split <;> exact .refl ..
  case timeBaseIncrement =>
    cases h
    refine attempt.trans ?_
    unfold countMicrosecond
    split <;> exact .refl ..
  case byteArrives m b => exact absurd rfl (hb m b)
  case answerByteClockedOut => cases h; exact .refl ..

theorem step_keepsLine {s t : State} (h : step s = .next t) : KeepsLine s t :=
  step_induction (R := KeepsLine) (fun _ => .refl ..) .trans (fun _ h => h) takeAttempt_keepsLine (fun _ _ _ => .refl ..)
    effect_keepsLine lineTime_keepsLine event_keepsLine h

/-- Settles O58: each operation of the model keeps the two laws together, so every step does. -/
theorem stepKeepsTheLineLaws : Obligations.StepKeepsTheLineLaws := by
  unfold Obligations.StepKeepsTheLineLaws
  intro s t line hold h
  exact (lineLawful_iff t).mp ((step_keepsLine h).keeps ((lineLawful_iff s).mpr ⟨line, hold⟩))

end Sys2Proof.Machine
end

section
/-!
PROOFS. UNWANT LINE, LINE SET and RELEARN: the line brought down, restarted and brought back to SEEK (R56, R63 to R70, R75, R82, R84).
-/

namespace Sys2Proof.Machine

/-! ### The departure from UP, seen from before and after it -/

/-- The departure from UP does not look at the want set, the record or the timers of the line. -/
theorem LeftUp.from_line {s t : State} {l : Line} (h : LeftUp { s with line := l } t) (hl : l.flags = s.line.flags) : LeftUp s t := by
  obtain ⟨blocks, flags, notices, store, buffers⟩ := h
  exact ⟨blocks, fun m hm => (flags m hm).trans (by rw [hl]), notices, store, buffers⟩

/-- The departure from UP raises the LINE request, whether it is raised already or not (R82). -/
theorem LeftUp.from_raised {s t : State} (h : LeftUp (raiseAll .line s) t) : LeftUp s t := by
  obtain ⟨blocks, flags, notices, store, buffers⟩ := h
  refine ⟨blocks, flags, fun m hm => (notices m hm).trans ?_, store, buffers⟩
  rw [raiseAll_notices, PerMaster.get_map]
  rfl

theorem LeftUp.raised {s t : State} (h : LeftUp s t) : LeftUp s (raiseAll .line t) := by
  obtain ⟨blocks, flags, notices, store, buffers⟩ := h
  refine ⟨?_, flags, fun m hm => ?_, store, buffers⟩
  · conv_lhs => rw [blocks]
    rfl
  · rw [raiseAll_notices, PerMaster.get_map, notices m hm]
    rfl

theorem raiseAll_raiseAll (src : NoticeSource) (s : State) : raiseAll src (raiseAll src s) = raiseAll src s := by
  have twice (n : Notices) : (n.raise src).raise src = n.raise src := by cases src <;> rfl
  simp only [raiseAll, PerMaster.map, PerMaster.get_tabulate, twice]

/-! ### UNWANT LINE -/

theorem leaveWantSet_of_rest {m : Master} {s : State}
    (h : (MasterSet.erase s.line.want m).isEmpty = false ∨ s.line.state = .down) :
    leaveWantSet m s = { s with line := { s.line with want := MasterSet.erase s.line.want m } } := by
  unfold leaveWantSet
  simp only
  rw [if_neg]
  rcases h with h | h
  · simp [h]
  · simp [LineState.isDown_iff.mpr h]

theorem leaveWantSet_of_last {m : Master} {s : State} (h : (MasterSet.erase s.line.want m).isEmpty = true)
    (hd : s.line.state ≠ .down) :
    leaveWantSet m s = goDown { s with line := { s.line with want := MasterSet.erase s.line.want m } } := by
  unfold leaveWantSet
  simp only
  rw [if_pos]
  simp only [h, Bool.true_and, Bool.not_eq_true']
  exact Bool.eq_false_iff.mpr (mt LineState.isDown_iff.mp hd)

theorem ne_down_of_isUp {l : LineState} (h : l.isUp = true) : l ≠ .down := by
  rintro rfl
  cases h

/-- Settles O11: the requester leaves the want set, and the last one to leave takes the line DOWN. -/
theorem unwantLineTakesTheLineDown : Obligations.UnwantLineTakesTheLineDown := by
  unfold Obligations.UnwantLineTakesTheLineDown
  intro m s hs rest down
  have answer : exec (.unwantLine m) s =
      .next (answered m .ok [(leaveWantSet m s).line.state.byte] (leaveWantSet m s)) :=
    exec_of_ready (effect := unwantLine m) rfl rfl hs
  have went {t : State} (h : leaveWantSet m s = t) (hd : t.line.state = .down) :
      exec (.unwantLine m) s = .next (answered m .ok [0] t) := by
    rw [answer, h, hd]
    rfl
  refine ⟨fun h => ?_, fun he hu => ?_, fun he hd hu => ?_⟩
  · rw [answer, leaveWantSet_of_rest h]
  · obtain ⟨left, line⟩ := goDown_of_up (s := { s with line := { s.line with want := rest } }) hu
    refine ⟨_, went (leaveWantSet_of_last he (ne_down_of_isUp hu)) rfl, left.from_line rfl, line⟩
  · exact went ((leaveWantSet_of_last he hd).trans (goDown_of_not_up hd hu)) rfl

/-! ### LINE SET -/

/-- The line after an entry under its record (R65, R48). -/
def Line.entered (l : Line) : Line := { l with
  idle := 0, access := 0, low := 0
  state := if l.settings.rateMode = .fixed then .up 0 0 else .seek []
  learned := if l.settings.rateMode = .fixed then l.settings.fixedCode else l.learned }

theorem lineEntry_of_fixed {s : State} (h : s.line.settings.rateMode = .fixed) :
    lineEntry s = raiseAll .line { s with line := s.line.entered } := by
  simp only [lineEntry, h, enterUp, Line.entered, if_true]

theorem lineEntry_of_learn {s : State} (h : s.line.settings.rateMode = .learn) :
    lineEntry s = { s with line := s.line.entered } := by
  simp only [lineEntry, h, setLineState, Line.entered, reduceCtorEq, if_false]

/-- An entry under a LINE request that is raised already (R70). -/
theorem lineEntry_of_raised (s : State) : lineEntry (raiseAll .line s) = raiseAll .line { s with line := s.line.entered } := by
  cases h : s.line.settings.rateMode with
  | fixed => exact (lineEntry_of_fixed (s := raiseAll .line s) h).trans (raiseAll_raiseAll .line { s with line := s.line.entered })
  | learn => exact lineEntry_of_learn (s := raiseAll .line s) h

theorem applySettings_of_down {r : Settings} {s : State} (h : s.line.state = .down) :
    applySettings r s = raiseAll .line { s with line := { s.line with settings := r } } := by
  simp only [applySettings, h]
  rfl

theorem applySettings_of_in_use {r : Settings} {s : State} (h : s.line.state ≠ .down) :
    applySettings r s = lineEntry (goDown (raiseAll .line { s with line := { s.line with settings := r } })) := by
  have in_use : s.line.state.isDown = false := Bool.eq_false_iff.mpr (mt LineState.isDown_iff.mp h)
  simp only [applySettings, in_use]
  rfl

/-- A line that has left UP may make its new entry (R70). -/
theorem LeftUp.entered {s t : State} (h : LeftUp s t) : LeftUp s (lineEntry t) := by
  cases hm : t.line.settings.rateMode with
  | fixed =>
    rw [lineEntry_of_fixed hm]
    exact (h.of_line t.line.entered rfl).raised
  | learn =>
    rw [lineEntry_of_learn hm]
    exact h.of_line t.line.entered rfl

theorem lineEntry_line (s : State) : (lineEntry s).line = s.line.entered := by
  cases hm : s.line.settings.rateMode with
  | fixed => rw [lineEntry_of_fixed hm]; rfl
  | learn => rw [lineEntry_of_learn hm]

/-- Settles O13: the refusals in their order, and the restart of a line in use. -/
theorem lineSetRestartsTheLine : Obligations.LineSetRestartsTheLine := by
  unfold Obligations.LineSetRestartsTheLine
  intro m bytes s hs
  have answer : exec (.lineSet m bytes) s = .next (answered m (lineSet m bytes s).status (lineSet m bytes s).results
      (lineSet m bytes s).state) := exec_of_ready rfl rfl hs
  refine ⟨fun hn => ?_, fun r hr => ⟨fun hw hm => ?_, fun hw => ?_⟩⟩
  · rw [answer]
    simp only [lineSet, hn, refuse]
  · rw [answer]
    simp only [lineSet, hr, hw, hm, refuse, decide_false, Bool.or_self, Bool.false_eq_true, if_false]
  · have taken : exec (.lineSet m bytes) s = .next (answered m .ok [] (applySettings r s)) := by
      rw [answer]
      simp only [lineSet, hr]
      rw [if_pos (by simpa using hw)]
    intro entered
    let replaced : State := { s with line := { s.line with settings := r } }
    have restarted (hd : s.line.state ≠ .down) :
        exec (.lineSet m bytes) s = .next (answered m .ok [] (lineEntry (goDown (raiseAll .line replaced)))) := by
      rw [taken, applySettings_of_in_use hd]
    refine ⟨fun hd => ?_, fun hu => ⟨_, restarted (ne_down_of_isUp hu), ?_⟩, fun hd hu => ?_⟩
    · rw [taken, applySettings_of_down hd]
    · obtain ⟨left, line⟩ := goDown_of_up (s := raiseAll .line replaced) hu
      have from_s : LeftUp s (goDown (raiseAll .line replaced)) := (LeftUp.from_raised left).from_line rfl
      refine ⟨from_s.entered, ?_⟩
      rw [lineEntry_line, line]
      rfl
    · rw [restarted hd, goDown_of_not_up (s := raiseAll .line replaced) hd hu]
      exact congrArg (fun t => Host.Outcome.next (answered m .ok [] t)) (lineEntry_of_raised { replaced with
        line := { replaced.line with state := .down, idle := 0, access := 0, low := 0 },
        receiver := none, store := abandonedStore s })

/-! ### RELEARN -/

/-- Settles O14: outside FIXED mode a line in use goes back to SEEK. -/
theorem relearnSeeks : Obligations.RelearnSeeks := by
  unfold Obligations.RelearnSeeks
  intro m s hs
  have answer : exec (.relearn m) s = .next (answered m (relearn s).status (relearn s).results (relearn s).state) :=
    exec_of_ready rfl rfl hs
  have seeks (hm : s.line.settings.rateMode = .learn) (hd : s.line.state ≠ .down) :
      exec (.relearn m) s = .next (answered m .ok [] (goSeek s)) := by
    have in_use : s.line.state.isDown = false := Bool.eq_false_iff.mpr (mt LineState.isDown_iff.mp hd)
    rw [answer]
    simp only [relearn, hm, in_use]
    rfl
  refine ⟨fun h => ?_, fun hm hu => ?_, fun hm hd hu => ?_⟩
  · rw [answer]
    have refused : (decide (s.line.settings.rateMode = .learn) && !s.line.state.isDown) = false := by
      rcases h with h | h
      · simp [h]
      · simp [LineState.isDown_iff.mpr h]
    simp only [relearn, refused, refuse, Bool.false_eq_true, if_false]
  · obtain ⟨left, line⟩ := goSeek_of_up hu
    exact ⟨_, seeks hm (ne_down_of_isUp hu), left, line⟩
  · rw [seeks hm hd, goSeek_of_not_up hd hu]

/-! ### The check bytes -/

/-- Settles O38: the check value of the polynomial of R47, by evaluation. -/
theorem checkOfTheNineDigits : Obligations.CheckOfTheNineDigits := by
  unfold Obligations.CheckOfTheNineDigits
  decide +kernel

end Sys2Proof.Machine
end

section
/-!
PROOFS. The transmitter: how an attempt and an automatic BUSY begin to send, what the end of a character does, and what the release of DE
does (R48 to R56, R107 to R109, R121, R127).
-/

namespace Sys2Proof.Machine

/-! ### A frame begins to send -/

theorem lineFree_of_idle {s : State} (hw : s.transmitter.wire = .none) (hf : s.receiver = none) : lineFree s = true := by
  simp only [lineFree, hw, hf]
  rfl

/-- The attempt goes first if no BUSY is in the slot, or if its wait is met before the end gap (R50, R52). -/
theorem sendAttempt_of_first {s : State} {a : Attempt} (ha : s.transmitter.waiting = some a) (hl : lineFree s = true)
    (h : s.transmitter.slot = none ∨ accessWait a s < endGapWait s) :
    sendAttempt s = { lineTime (accessWait a s) s with transmitter :=
      ⟨.sending ⟨.job a, false, false, s.line.settings.turnaround⟩ (frameCharacters a.copy), none, s.transmitter.slot⟩ } := by
  simp only [sendAttempt, ha, hl, Bool.true_and]
  rw [if_pos (by simpa using h)]
  rfl

theorem sendAttempt_of_aside {s : State} {a : Attempt} (ha : s.transmitter.waiting = some a) (hs : s.transmitter.slot ≠ none)
    (h : endGapWait s ≤ accessWait a s) : sendAttempt s = s := by
  simp only [sendAttempt, ha]
  rw [if_neg]
  simp [hs, Nat.not_lt.mpr h]

theorem sendBusy_of_slot {s : State} {b : AutoBusy} (hb : s.transmitter.slot = some b) (hl : lineFree s = true) :
    sendBusy s = { lineTime (endGapWait s) s with transmitter :=
      ⟨.sending ⟨.busy b, false, false, s.line.settings.turnaround⟩ (frameCharacters b.image), s.transmitter.waiting, none⟩ } := by
  simp only [sendBusy, hb, hl, if_true]
  rfl

/-- Settles O46: on a free line the attempt or the BUSY begins once its own wait has passed. -/
theorem sendingBegins : Obligations.SendingBegins := by
  unfold Obligations.SendingBegins
  intro s hs hw hf toEndGap begins
  have free : lineFree s = true := lineFree_of_idle hw hf
  have attempt : exec .attemptBeginsSending s = .next (sendAttempt s) := by
    show Host.Outcome.next (sendAttempt (takeAttempt s)) = _
    rw [takeAttempt_of_settled hs]
  have busy : exec .automaticBusyStart s = .next (sendBusy s) := by
    show Host.Outcome.next (sendBusy (takeAttempt s)) = _
    rw [takeAttempt_of_settled hs]
  refine ⟨fun a ha => ⟨fun h => ?_, fun hn h => ?_⟩, fun b hb => ?_, fun first rest => rfl⟩
  · rw [attempt, sendAttempt_of_first ha free h]
    rfl
  · rw [attempt, sendAttempt_of_aside ha hn h]
  · rw [busy, sendBusy_of_slot hb free]
    rfl

/-! ### A character has been sent -/

/-- The line state after a character report: the silence timer of a line that is UP has started afresh (R80). -/
def LineState.reported : LineState → LineState
  | .up _ bad => .up 0 bad
  | l => l

theorem reportCharacter_eq (s : State) : reportCharacter s = { s with line := { s.line with state := s.line.state.reported } } := by
  have same {l : LineState} (hl : s.line.state = l) : s = { s with line := { s.line with state := l } } := by
    subst hl
    rfl
  cases hl : s.line.state with
  | up silence bad =>
    simp only [reportCharacter, hl]
    rfl
  | _ =>
    have idle : reportCharacter s = s := by simp only [reportCharacter, hl]
    exact idle.trans (same hl)

/-- What every character the part sends leaves of the line (R43, R48, R62). -/
theorem characterLeaves_eq (low : Nat) (s : State) : characterLeaves low s =
    if s.line.state = .down then lineTime 11 s else { lineTime 11 s with line := { (lineTime 11 s).line with
      state := (lineTime 11 s).line.state.reported, idle := 0, access := 0, low := low } } := by
  by_cases hd : s.line.state = .down
  · have still : (lineTime 11 s).line.state = .down := by rw [lineTime_line, hd]; rfl
    have idle : restartIdle low (lineTime 11 s) = lineTime 11 s := by simp only [restartIdle, still]
    have report : reportCharacter (lineTime 11 s) = lineTime 11 s := by simp only [reportCharacter, still]
    rw [if_pos hd, characterLeaves, Config.bitsPerCt, idle, report]
  · rw [if_neg hd, characterLeaves, restartIdle_of_in_use (lineTime_in_use hd _), reportCharacter_eq]
    rfl

/-- Settles O47: the character's time and its report, then the echo compare of an uncut frame. -/
theorem echoIsCompared : Obligations.EchoIsCompared := by
  unfold Obligations.EchoIsCompared
  intro s f c rest echo low hs hw passed after wired sent
  have left : characterLeaves (lowAfter (echo.getLsbD 10) low) s = after := characterLeaves_eq ..
  have ends : exec (.characterSent echo low) s = .next (finishCharacter f c rest echo after) := by
    show Host.Outcome.next (characterSent echo low (takeAttempt s)) = _
    rw [takeAttempt_of_settled hs, ← left]
    simp only [characterSent, hw]
  rw [ends]
  congr 1
  by_cases hc : f.cut = true
  · rw [finishCharacter, if_pos hc, if_pos (.inl hc)]
    rfl
  · by_cases he : echo = c.bits
    · rw [finishCharacter, if_neg hc, if_neg (not_not_intro he), if_pos (.inr he)]
      rfl
    · have differs : ¬(f.cut = true ∨ echo = BitVec.ofNat 11 (2 * c.data.toNat + 512 * c.mark.toNat + 1024)) :=
        not_or.mpr ⟨hc, he⟩
      rw [finishCharacter, if_neg hc, if_pos he, if_neg differs]
      rfl

/-! ### DE is released -/

theorem exec_deRelease {s : State} {f : OnWire} {left : Nat} (hs : Settled s) (hw : s.transmitter.wire = .turnaround f left) :
    exec .deRelease s = .next (releaseDriver f (setWire .none (lineTime left s))) := by
  show Host.Outcome.next (turnaroundEnds (takeAttempt s)) = _
  rw [takeAttempt_of_settled hs]
  simp only [turnaroundEnds, hw]

theorem releaseDriver_of_job {f : OnWire} {a : Attempt} {r : Running} {s : State} (ha : f.sender = .job a) (hc : f.cut = false)
    (hr : s.jobs.running = some r) :
    releaseDriver f s = if f.collided then attemptCollided r s else attemptCompleted r a s := by
  simp only [releaseDriver, ha, hc, hr, Bool.false_eq_true, if_false]

theorem currentSend_eq {r : Running} {b : BufferId} {h : Header} (ho : r.job.orders[r.job.index]? = some ⟨.send b, some h⟩) :
    currentSend r = some (b, h) := by simp only [currentSend, ho]

theorem nextOrder_of_running {s : State} {r : Running} (hr : s.jobs.running = some r) :
    nextOrder s = orderDue orderFuel (setRunning (some { r with job := { r.job with index := r.job.index + 1 } }) s) := by
  simp only [nextOrder, hr]

/-- A RUNNING job whose attempt has completed (R121). -/
def Running.sent (r : Running) (h : Header) : Running := { r with job := { r.job with lastSend := some ⟨h.kind, h.key⟩ } }

/-- The state in which a job goes on after an attempt that has completed: its last SEND set and its loop-back copy made (R54). -/
def afterAttempt (r : Running) (a : Attempt) (h : Header) (s : State) : State :=
  if a.loopBack then loopBackCopy r.job.master a.copy (setRunning (some (r.sent h)) s) else setRunning (some (r.sent h)) s

theorem afterAttempt_running (r : Running) (a : Attempt) (h : Header) (s : State) :
    (afterAttempt r a h s).jobs.running = some (r.sent h) := by
  unfold afterAttempt
  split
  · rw [loopBackCopy_jobs]
    rfl
  · rfl

/-- An attempt that has completed: a pending end ends its job, and without one the next order is due (R121, R127). -/
theorem attemptCompleted_eq {r : Running} {b : BufferId} {h : Header} (ho : r.job.orders[r.job.index]? = some ⟨.send b, some h⟩)
    (a : Attempt) (s : State) : attemptCompleted r a s = match r.job.pendingEnd with
      | some p => endJob p.outcome (some r.job.index) (afterAttempt r a h s)
      | none => orderDue orderFuel (setRunning
          (some { r.sent h with job := { (r.sent h).job with index := r.job.index + 1 } }) (afterAttempt r a h s)) := by
  have taken : attemptCompleted r a s = match r.job.pendingEnd with
      | some p => endJob p.outcome (some r.job.index) (afterAttempt r a h s)
      | none => nextOrder (afterAttempt r a h s) := by
    simp only [attemptCompleted, currentSend_eq ho]
    rfl
  rw [taken, nextOrder_of_running (afterAttempt_running ..)]
  rfl

/-- Settles O48: what is left of the turnaround passes, and the frame's outcome goes to its job. -/
theorem driverIsReleased : Obligations.DriverIsReleased := by
  unfold Obligations.DriverIsReleased
  intro s f left hs hw passed low runs
  have released : exec .deRelease s = .next (releaseDriver f low) := exec_deRelease hs hw
  refine ⟨fun reply hf => ?_, fun hc => ?_, fun a r b h ha hc hr ho => ?_⟩
  · rw [released]
    simp only [releaseDriver, hf]
  · rw [released]
    cases hf : f.sender <;> simp only [releaseDriver, hf, hc, if_true]
  · intro ending sent goesOn
    have ended (p : PendingEnd) : p.outcome = ending p := by cases p <;> rfl
    have driven : exec .deRelease s = .next (if f.collided then attemptCollided r low else attemptCompleted r a low) := by
      rw [released, releaseDriver_of_job ha hc hr]
    have collides (hf : f.collided = true) : exec .deRelease s = .next (attemptCollided r low) := by
      rw [driven, if_pos hf]
    have completes (hf : f.collided = false) : exec .deRelease s = .next (goesOn (afterAttempt r a h low)) := by
      rw [driven, hf]
      exact congrArg Host.Outcome.next (attemptCompleted_eq ho a low)
    refine ⟨fun p hf hp => ?_, fun hf hp hl => ?_, fun hf hp hl => ?_, fun hf hb => ?_, fun hf hb hl => ?_⟩
    · rw [collides hf, attemptCollided, hp, ← ended]
    · rw [collides hf, attemptCollided, hp]
      exact congrArg _ (if_neg (Nat.not_lt.mpr hl))
    · rw [collides hf, attemptCollided, hp]
      simp only [currentSend_eq ho]
      exact congrArg _ (if_pos hl)
    · rw [completes hf, afterAttempt, hb]
      rfl
    · refine ⟨_, loopBackCopy_loopedBack r.job.master a.copy (setRunning (some (r.sent h)) low) (by omega), ?_⟩
      rw [completes hf, afterAttempt, hb]
      rfl

end Sys2Proof.Machine
end

section
/-!
PROOFS. The frame end: the errors of a frame, the frame reports of every line state in use, and a unicast REQUEST (R60, R62, R78 to R82,
R98 to R100, R180, R181).
-/

namespace Sys2Proof.Machine

/-! ### The errors of a frame -/

section

variable (f : Frame)

/-- The five errors of a frame, in the order in which they are sought (R60). -/
abbrev Frame.framingError : Prop := f.firstError = some .framing

abbrev Frame.lengthError : Prop :=
  f.header.length < 5 ∨ 240 < (headerOf f.header).length.toNat ∨ f.count ≠ 7 + (headerOf f.header).length.toNat

abbrev Frame.crcError : Prop := f.check ≠ halfBytes f.crc

abbrev Frame.sourceError : Prop := ¬(1 ≤ (headerOf f.header).source.toNat ∧ (headerOf f.header).source.toNat ≤ 0xDF)

abbrev Frame.kindError : Prop :=
  (headerOf f.header).kind ∉ ([0x10, 0x20, 0x30, 0x31, 0x40, 0x41] : List Byte) ∨
    ((headerOf f.header).kind ∈ ([0x30, 0x31] : List Byte) ∧ 0xE0 ≤ (headerOf f.header).destination.toNat)

end

variable {f : Frame}

theorem frameError_of_framing (h : f.framingError) : frameError f = some .framing := by
  simp only [frameError]
  rw [if_pos h]

section

variable (hf : ¬f.framingError)

include hf

theorem frameError_of_length (h : f.lengthError) : frameError f = some .length := by
  simp only [frameError]
  rw [if_neg hf, if_pos]
  simpa [Frame.lengthError, or_assoc] using h

variable (hl : ¬f.lengthError)

include hl

theorem frameError_of_crc (h : f.crcError) : frameError f = some .crc := by
  simp only [frameError]
  rw [if_neg hf, if_neg, if_pos h]
  simpa [Frame.lengthError, or_assoc] using hl

variable (hc : ¬f.crcError)

include hc

theorem frameError_of_source (h : f.sourceError) : frameError f = some .source := by
  have source : isUnicast (headerOf f.header).source = false := Bool.eq_false_iff.mpr (mt isUnicast_iff.mp h)
  simp only [frameError]
  rw [if_neg hf, if_neg, if_neg hc, source]
  · rfl
  · simpa [Frame.lengthError, or_assoc] using hl

variable (hs : ¬f.sourceError)

include hs

theorem frameError_of_checked : frameError f = match FrameKind.ofByte (headerOf f.header).kind with
    | none => some .kind
    | some .reply => if 0xE0 ≤ (headerOf f.header).destination.toNat then some .kind else none
    | some .busy => if 0xE0 ≤ (headerOf f.header).destination.toNat then some .kind else none
    | some _ => none := by
  have source : isUnicast (headerOf f.header).source = true := isUnicast_iff.mpr (not_not.mp hs)
  simp only [frameError, isGroup_or_isBroadcast, decide_eq_true_eq]
  rw [if_neg hf, if_neg, if_neg hc, source]
  · rfl
  · simpa [Frame.lengthError, or_assoc] using hl

theorem frameError_of_kind (h : f.kindError) : frameError f = some .kind := by
  rw [frameError_of_checked hf hl hc hs]
  rcases h with h | ⟨h, hd⟩
  · rw [(ofByte_eq_none _).mpr h]
  · rcases List.mem_pair.mp h with h | h
    · rw [(ofByte_eq_reply _).mpr h]
      exact if_pos hd
    · rw [(ofByte_eq_busy _).mpr h]
      exact if_pos hd

theorem frameError_of_none (h : ¬f.kindError) : frameError f = none := by
  obtain ⟨known, unicast⟩ := not_or.mp h
  rw [frameError_of_checked hf hl hc hs]
  split
  · rename_i hk
    exact absurd ((ofByte_eq_none _).mp hk) known
  · rename_i hk
    exact if_neg fun hd => unicast ⟨by simp [(ofByte_eq_reply _).mp hk], hd⟩
  · rename_i hk
    exact if_neg fun hd => unicast ⟨by simp [(ofByte_eq_busy _).mp hk], hd⟩
  · rfl

end

/-- A frame with none of the five errors is good, and only such a frame is (R60). -/
theorem frameError_eq_none_iff (f : Frame) : frameError f = none ↔
    ¬(f.framingError ∨ f.lengthError ∨ f.crcError ∨ f.sourceError ∨ f.kindError) := by
  by_cases hf : f.framingError
  · simp [frameError_of_framing hf, hf]
  by_cases hl : f.lengthError
  · simp [frameError_of_length hf hl, hl]
  by_cases hc : f.crcError
  · simp [frameError_of_crc hf hl hc, hc]
  by_cases hs : f.sourceError
  · simp [frameError_of_source hf hl hc hs, hs]
  by_cases hk : f.kindError
  · simp [frameError_of_kind hf hl hc hs hk, hk]
  · simp [frameError_of_none hf hl hc hs hk, hf, hl, hc, hs, hk]

/-! ### The state in which a frame has ended -/

/-- The state in which a frame's report is made: the end gap is met and no frame is in progress (R48, R62). -/
def frameEnded (s : State) : State := { lineTime (s.line.low + (22 - s.line.idle)) s with receiver := none }

theorem exec_frameEnd {s : State} (hs : FrameEndSettled s) (hf : s.receiver = some f) :
    exec .frameEnd s = .next (endFrame f (frameEnded s)) := by
  simp only [exec, execFrameEnd, hf, attemptBeforeFrameEnd_eq hs]
  rfl

/-- The state in which a bad frame has been counted and its buffer, if any, has left use (R60). -/
def badFrameEnded (n : CounterName) (s : State) : State := countAll n { frameEnded s with store := abandonedStore s }

theorem endBadFrame_eq {s : State} (hf : s.receiver = some f) (e : ReceiveError) :
    endBadFrame e f (frameEnded s) = badFrameEnded e.counter s := by
  simp only [endBadFrame, badFrameEnded, abandonedStore, hf, Option.bind_some]
  cases f.buffer <;> rfl

theorem exec_frameEnd_of_bad {s : State} {e : ReceiveError} (hs : FrameEndSettled s) (hf : s.receiver = some f)
    (he : frameError f = some e) : exec .frameEnd s = .next (reportFrame false (badFrameEnded e.counter s)) := by
  rw [exec_frameEnd hs hf, endFrame, he]
  exact congrArg (fun t => Host.Outcome.next (reportFrame false t)) (endBadFrame_eq hf e)

/-- A good frame outside UP, or without a match, is reported and nothing else (R62, R78). -/
theorem exec_frameEnd_of_good {s : State} (hs : FrameEndSettled s) (hf : s.receiver = some f) (he : frameError f = none)
    (hm : ¬(s.line.state.isUp = true ∧ f.matched = some true)) :
    exec .frameEnd s = .next (reportFrame true (frameEnded s)) := by
  have up : (frameEnded s).line.state.isUp = s.line.state.isUp := lineTime_isUp ..
  rw [exec_frameEnd hs hf, endFrame, he, up]
  simp only [Bool.and_eq_true, decide_eq_true_eq, hm, if_false]

/-! ### What a report does -/

theorem reportFrame_of_seek {s : State} {run : List Rat} (good : Bool) (hl : s.line.state = .seek run) : reportFrame good s = s := by
  simp only [reportFrame, hl]

theorem reportFrame_good_of_qualify {s : State} {candidate : RateCode} {count window : Nat}
    (hl : s.line.state = .qualify candidate count window) (hf : s.receiver = none) : reportFrame true s =
      if count = 0 then setLineState (.qualify candidate 1 window) s else enterUp candidate s := by
  have nothing : abandonReception s = s := by simp only [abandonReception, hf]
  simp only [reportFrame, hl, nothing, if_true]

/-- A good frame ends the bad-frame run of a line that is UP in LEARN mode (R81). -/
theorem reportFrame_good_of_up {s : State} {silence bad : Nat} (hl : s.line.state = .up silence bad) : reportFrame true s =
    { s with line := { s.line with state := .up silence (if s.line.settings.rateMode = .learn then 0 else bad) } } := by
  cases hm : s.line.settings.rateMode with
  | fixed =>
    rw [reportFrame_of_fixed true (by rw [hl]; rfl) hm]
    simp [← hl]
  | learn => simp only [reportFrame, hl, hm, if_true, setLineState]

theorem ReceiveError.counter_eq (e : ReceiveError) : e.counter = if e = .crc then .crcErrors else .formatErrors := by
  cases e <;> rfl

/-- Settles O16: the report of a frame in each line state in use, good and bad. -/
theorem frameReportsMoveTheLine : Obligations.FrameReportsMoveTheLine := by
  unfold Obligations.FrameReportsMoveTheLine
  refine ⟨fun s hf => ?_, fun s f hs hf => ?_⟩
  · simp only [exec, execFrameEnd, hf]
  intro wait ended stands counted
  have lost (e : ReceiveError) : badFrameEnded e.counter s = counted e ended := by
    rw [e.counter_eq]
    rfl
  have bad_ends {e : ReceiveError} (he : frameError f = some e) : exec .frameEnd s = .next (reportFrame false (counted e ended)) := by
    rw [← lost, exec_frameEnd_of_bad hs hf he]
  refine ⟨fun run hl => ?seek, fun candidate count window hl => ?qualify, fun silence bad hl => ?up⟩
  case seek =>
    have state : ended.line.state = .seek run := congrArg (LineState.after wait _) hl
    refine ⟨fun he => ?_, fun e he => ?_⟩
    · rw [exec_frameEnd_of_good hs hf he (by simp [hl, LineState.isUp])]
      exact congrArg _ (reportFrame_of_seek true state)
    · rw [bad_ends he]
      exact congrArg _ (reportFrame_of_seek false state)
  case qualify =>
    have state : ended.line.state = .qualify candidate count (window - wait) := congrArg (LineState.after wait _) hl
    have good (he : frameError f = none) : exec .frameEnd s = .next (if count = 0 then
        setLineState (.qualify candidate 1 (window - wait)) ended else enterUp candidate ended) := by
      rw [exec_frameEnd_of_good hs hf he (by simp [hl, LineState.isUp])]
      exact congrArg _ (reportFrame_good_of_qualify state rfl)
    refine ⟨fun he hc => ?_, fun he hc => ?_, fun e he => ?_⟩
    · rw [good he, if_pos hc]
      rfl
    · rw [good he, if_neg hc]
      rfl
    · rw [bad_ends he, reportFrame_bad_of_qualify (s := counted e ended) state]
      rfl
  case up =>
    intro still
    have state : ended.line.state = .up still bad := congrArg (LineState.after wait _) hl
    refine ⟨fun he hm => ?_, fun e he hm hb => ?_, fun e he hm hb => ?_⟩
    · rw [exec_frameEnd_of_good hs hf he (by simp [hm])]
      exact congrArg _ (reportFrame_good_of_up state)
    · rw [bad_ends he, reportFrame_bad_counts (s := counted e ended) state hm hb]
      rfl
    · exact ⟨_, bad_ends he, reportFrame_bad_seeks (s := counted e ended) state hm hb⟩

/-! ### Counters -/

/-- Settles O40: the counters one by one, and the report of a bad frame on a line that is UP by its first error. -/
theorem badFrameIsCounted : Obligations.BadFrameIsCounted := by
  unfold Obligations.BadFrameIsCounted
  refine ⟨fun c => ?_, fun n m s => ?_, fun bytes => rfl, fun s f silence bad hs hf hl => ?_⟩
  · unfold countUp
    split
    · assumption
    · rfl
  · intro raised
    have up (k : Counters) : k.up n = raised k := by cases n <;> rfl
    refine ⟨?_, ?_⟩
    · simp only [countAll, PerMaster.map, PerMaster.tabulate, up]
      rfl
    · simp only [countAt, PerMaster.modify, up]
  · intro h framing length crc source kind wait ended still endsAs
    have state : ended.line.state = .up still bad := congrArg (LineState.after wait _) hl
    have ends {e : ReceiveError} (he : frameError f = some e) : endsAs e.counter := by
      have reported := exec_frameEnd_of_bad hs hf he
      refine ⟨fun hm => ?_, fun hm hb => ?_, fun hm hb => ?_⟩
      · rw [reported, reportFrame_of_fixed (s := badFrameEnded e.counter s) false (congrArg LineState.isUp state) hm]
        rfl
      · rw [reported, reportFrame_bad_counts (s := badFrameEnded e.counter s) state hm hb]
        rfl
      · exact ⟨_, reported, reportFrame_bad_seeks (s := badFrameEnded e.counter s) state hm hb⟩
    refine ⟨fun he => ?_, fun hf hl hc => ends (frameError_of_crc hf hl hc), fun hf hl hc he => ?_, frameError_eq_none_iff f⟩
    · by_cases hf : framing
      · exact ends (frameError_of_framing hf)
      · exact ends (frameError_of_length hf (he.resolve_left hf))
    · by_cases hs : source
      · exact ends (frameError_of_source hf hl hc hs)
      · exact ends (frameError_of_kind hf hl hc hs (he.resolve_left hs))

/-! ### A unicast REQUEST -/

theorem raiseIn_singleton (m : Master) (src : NoticeSource) (s : State) : raiseIn (MasterSet.singleton m) src s = raiseAt m src s := by
  cases m <;> rfl

theorem countIn_singleton (m : Master) (n : CounterName) (s : State) : countIn (MasterSet.singleton m) n s = countAt m n s := by
  cases m <;> rfl

theorem singleton_get (m : Master) : (MasterSet.singleton m).get = fun n => decide (n = m) := by
  funext n
  exact MasterSet.get_singleton ..

theorem deliver_unicast_request {h : Header} (hk : h.kind = 0x20) (hd : 1 ≤ h.destination.toNat ∧ h.destination.toNat ≤ 0xDF)
    (b : Option BufferId) (s : State) : deliver h b s = deliverRequest h b s := by
  have unicast : isUnicast h.destination = true := isUnicast_iff.mpr hd
  simp only [deliver, (ofByte_eq_request _).mpr hk, unicast, if_true]

section

variable {h : Header} {s : State} {m : Master} (ho : ownerOf s.table h.destination = some m)

/-- The transmitter once a REQUEST has been answered BUSY, which with listen-only on it is not (R99, R100). -/
def answeredBusy (h : Header) (s : State) : Transmitter := { s.transmitter with
  slot := if s.line.settings.listenOnly then s.transmitter.slot else some ⟨h.source, h.destination, h.sequence⟩ }

include ho

theorem deliverRequest_below {b : BufferId} (hb : (s.delivery.inbound.get m).length < (s.ports.get m).settings.busyThreshold) :
    deliverRequest h (some b) s = deliverTo (MasterSet.singleton m) h (some b) false s := by
  simp only [deliverRequest, ho, hb, if_true]

theorem deliverRequest_at_threshold {b : BufferId}
    (hb : (s.ports.get m).settings.busyThreshold ≤ (s.delivery.inbound.get m).length) :
    deliverRequest h (some b) s =
      if s.line.settings.listenOnly then
        { raiseAt m .missed (countAt m .missed s) with store := s.store.leaveUse b, transmitter := answeredBusy h s }
      else countAt m .busySent
        { raiseAt m .missed (countAt m .missed s) with store := s.store.leaveUse b, transmitter := answeredBusy h s } := by
  simp only [deliverRequest, ho, Nat.not_lt.mpr hb, if_false, missedAt, raiseIn_singleton, countIn_singleton, answeredBusy]
  split <;> rfl

theorem deliverRequest_without_buffer : deliverRequest h none s =
    { lostWithoutBuffer (fun n => decide (n = m)) s with transmitter := answeredBusy h s } := by
  simp only [deliverRequest, ho, noBufferAt_eq, singleton_get, answeredBusy]
  split <;> rfl

end

theorem deliverRequest_without_owner {h : Header} {s : State} (ho : ownerOf s.table h.destination = none) (b : Option BufferId) :
    deliverRequest h b s = leaveUse b s := by simp only [deliverRequest, ho]

/-- Settles O42: a REQUEST's owner, its queue depth and the buffer decide. -/
theorem requestIsAnsweredBusy : Obligations.RequestIsAnsweredBusy := by
  unfold Obligations.RequestIsAnsweredBusy
  intro s f hs hf he hm hu h hk hd ended answer placed
  have delivered : exec .frameEnd s = .next (deliverRequest h f.buffer ended) := by
    rw [exec_frameEnd_delivers hs hf he hm hu, deliver_unicast_request hk hd]
  refine ⟨fun ho => ?_, fun m ho => ⟨fun hb => ?_, fun b hb => ⟨fun below => ?_, fun reached => ?_⟩⟩⟩
  · rw [delivered, deliverRequest_without_owner (s := ended) ho]
    simp only [abandonedStore, hf, Option.bind_some]
    cases f.buffer <;> rfl
  · rw [delivered, hb, deliverRequest_without_buffer (s := ended) ho]
    rfl
  · refine ⟨_, delivered, ?_⟩
    rw [hb, deliverRequest_below (s := ended) ho below, ← singleton_get]
    exact deliverTo_delivered ..
  · rw [delivered, hb, deliverRequest_at_threshold (s := ended) ho reached]
    rfl

end Sys2Proof.Machine
end

section
/-!
PROOFS. The rate detector: the runs and the bit time of a sample, the codes that a measurement matches, and what the sample of a character
in SEEK decides (R58, R61, R63, R72, R75 to R78; assumption log 12).
-/

namespace Sys2Proof.Machine

/-! ### The rate of a measurement -/

/-- No two rates of R72 lie within 3% of one measured rate. -/
theorem rates_apart : ∀ c d : RateCode, 97 * rateOf c ≤ 103 * rateOf d → 97 * rateOf d ≤ 103 * rateOf c → rateOf c = rateOf d := by
  decide +kernel

theorem measurementMatches_iff (run : List Rat) (c : RateCode) : measurementMatches run c = true ↔
    97 * rateOf c ≤ 100 * measuredRate run ∧ 100 * measuredRate run ≤ 103 * rateOf c := by
  rw [measurementMatches, decide_eq_true_eq]

theorem rateOf_eq (c : RateCode) :
    rateOf c = if c.val < 8 then 125000 * ((c.val + 1 : Nat) : Rat) else 1000000 / ((c.val - 7 : Nat) : Rat) := by
  unfold rateOf
  split
  · ring
  · rw [show c.val - 8 + 1 = c.val - 7 by omega]

/-! ### The bit time of a character -/

theorem foldl_gcd_dvd (ns : List Nat) (k : Nat) : ns.foldl Nat.gcd k ∣ k ∧ ∀ n ∈ ns, ns.foldl Nat.gcd k ∣ n := by
  induction ns generalizing k with
  | nil => exact ⟨dvd_rfl, fun n h => absurd h List.not_mem_nil⟩
  | cons m rest ih =>
    obtain ⟨first, others⟩ := ih (Nat.gcd k m)
    refine ⟨first.trans (Nat.gcd_dvd_left k m), fun n hn => ?_⟩
    rcases List.mem_cons.mp hn with rfl | hn
    · exact first.trans (Nat.gcd_dvd_right k n)
    · exact others n hn

theorem foldl_gcd_pos {ns : List Nat} (hn : ns ≠ []) (hp : ∀ n ∈ ns, 0 < n) : 0 < ns.foldl Nat.gcd 0 := by
  obtain ⟨n, rest, rfl⟩ := List.exists_cons_of_ne_nil hn
  exact Nat.pos_of_dvd_of_pos ((foldl_gcd_dvd _ 0).2 n (List.mem_cons_self ..)) (hp n (List.mem_cons_self ..))

section

variable {runs : List Rat} (hn : runs ≠ []) (hp : ∀ x ∈ runs, 0 < x)

include hn hp

theorem measureOf_pos : 0 < measureOf runs := by
  obtain ⟨d, ns, hd, hns, rfl⟩ := exists_common_duration runs hp
  rw [measureOf_mul ns hd]
  have pos : 0 < ns.foldl Nat.gcd 0 := foldl_gcd_pos (by simpa using hn) hns
  exact mul_pos (by exact_mod_cast pos) hd

/-- Every run is a whole multiple of the bit time (R76). -/
theorem measureOf_divides {x : Rat} (hx : x ∈ runs) : ∃ n : Nat, x = n * measureOf runs := by
  obtain ⟨d, ns, hd, hns, rfl⟩ := exists_common_duration runs hp
  rw [measureOf_mul ns hd]
  obtain ⟨n, hm, rfl⟩ := List.mem_map.mp hx
  obtain ⟨q, hq⟩ := (foldl_gcd_dvd ns 0).2 n hm
  refine ⟨q, ?_⟩
  conv_lhs => rw [hq]
  push_cast
  ring

/-- No longer duration divides every run (R76). -/
theorem le_measureOf {d : Rat} (hd : 0 < d) (h : ∀ x ∈ runs, ∃ n : Nat, x = n * d) : d ≤ measureOf runs := by
  choose! count counts using h
  have multiples : runs = (runs.map count).map fun n : Nat => (n : Rat) * d := by
    rw [List.map_map]
    conv_lhs => rw [← List.map_id runs]
    exact List.map_congr_left counts
  have positive : ∀ n ∈ runs.map count, 0 < n := by
    intro n hm
    obtain ⟨x, hx, rfl⟩ := List.mem_map.mp hm
    refine Nat.pos_of_ne_zero fun h0 => ?_
    have zero := counts x hx
    rw [h0, Nat.cast_zero, zero_mul] at zero
    exact (hp x hx).ne' zero
  have one : 1 ≤ (runs.map count).foldl Nat.gcd 0 := foldl_gcd_pos (by simpa using hn) positive
  rw [multiples, measureOf_mul _ hd]
  exact le_mul_of_one_le_left hd.le (by exact_mod_cast one)

end

/-! ### The runs of a character -/

/-- The last of some things in a row that passes a test, when one does. -/
theorem exists_getLastD_filter {α : Type} (f : Nat → α) (test : α → Bool) (default : α) {n i : Nat} (hi : i < n) (ht : test (f i) = true) :
    ∃ k < n, (((List.range n).map f).filter test).getLastD default = f k ∧ test (f k) = true ∧
      ∀ j, k < j → j < n → test (f j) = false := by
  induction n with
  | zero => omega
  | succ n ih =>
    rw [List.range_succ, List.map_append, List.filter_append]
    cases hlast : test (f n) with
    | true =>
      refine ⟨n, Nat.lt_succ_self n, by simp [hlast], hlast, fun j h1 h2 => by omega⟩
    | false =>
      have earlier : i < n := by
        refine Nat.lt_of_le_of_ne (Nat.lt_succ_iff.mp hi) ?_
        rintro rfl
        rw [ht] at hlast
        cases hlast
      obtain ⟨k, hk, last, passes, later⟩ := ih earlier
      refine ⟨k, Nat.lt_succ_of_lt hk, by simpa [hlast] using last, passes, fun j h1 h2 => ?_⟩
      by_cases hj : j = n
      · rw [hj, hlast]
      · exact later j h1 (by omega)

theorem measureOf_singleton (x : Rat) (hx : 0 < x) : measureOf [x] = x := by
  have h := measureOf_mul [1] hx
  simpa using h

/-- The runs of a character are the longest beginning that ends with a rise within 11 of its own bit times; the first low run alone
always does (assumption log 12). -/
theorem characterRuns_longest {runs : List Rat} (hn : runs ≠ []) (hp : ∀ x ∈ runs, 0 < x) : ∃ k, 2 * k + 1 ≤ runs.length ∧
    characterRuns runs = runs.take (2 * k + 1) ∧ (characterRuns runs).sum ≤ 11 * measureOf (characterRuns runs) ∧
    ∀ j, k < j → 2 * j + 1 ≤ runs.length → 11 * measureOf (runs.take (2 * j + 1)) < (runs.take (2 * j + 1)).sum := by
  obtain ⟨x, rest, rfl⟩ := List.exists_cons_of_ne_nil hn
  have hx : 0 < x := hp x (List.mem_cons_self ..)
  have first : decide (((x :: rest).take (2 * 0 + 1)).sum ≤ 11 * measureOf ((x :: rest).take (2 * 0 + 1))) = true := by
    simp only [Nat.mul_zero, Nat.zero_add, List.take_succ_cons, List.take_zero, measureOf_singleton x hx, List.sum_cons,
      List.sum_nil, add_zero, decide_eq_true_eq]
    linarith
  obtain ⟨k, hk, last, passes, later⟩ := exists_getLastD_filter (fun i => (x :: rest).take (2 * i + 1))
    (fun p => decide (p.sum ≤ 11 * measureOf p)) [] (n := ((x :: rest).length + 1) / 2) (i := 0)
    (by simp only [List.length_cons]; omega) first
  have counted : characterRuns (x :: rest) = (x :: rest).take (2 * k + 1) := last
  refine ⟨k, by omega, counted, ?_, fun j h1 h2 => ?_⟩
  · rw [counted]
    exact of_decide_eq_true passes
  · exact not_le.mp (of_decide_eq_false (later j h1 (by omega)))

/-! ### A sample taken -/

theorem sampleOf_of_short {runs : List Rat} (h : (characterRuns runs).length ≤ 1) : sampleOf runs = none := by
  unfold sampleOf
  split
  · rfl
  · rfl
  · rename_i empty one
    match hc : characterRuns runs, h with
    | [], _ => exact absurd hc empty
    | [x], _ => exact absurd hc (one x)

theorem sampleOf_of_runs {runs : List Rat} (h : 2 ≤ (characterRuns runs).length) :
    sampleOf runs = some (measureOf (characterRuns runs)) := by
  unfold sampleOf
  split
  · rename_i hc
    rw [hc] at h
    cases h
  · rename_i hc
    rw [hc] at h
    simp at h
  · rfl

section

variable {u : State} {run : List Rat} (hl : u.line.state = .seek run)

include hl

theorem detect_of_unusable {runs : List Rat} (h : sampleOf runs = none) : detect runs u = setLineState (.seek []) u := by
  simp only [detect, hl, h]

theorem detect_of_sample {runs : List Rat} {x : Rat} (h : sampleOf runs = some x) :
    detect runs u = if (addSample run x).length = 8 then measure (addSample run x) u else setLineState (.seek (addSample run x)) u := by
  simp only [detect, hl, h]
  rfl

end

/-- The first of the codes that pass a test is the lowest of them. -/
theorem head_filter_finRange {p : RateCode → Bool} {c : RateCode} (hc : p c = true) (hm : ∀ d, p d = true → c ≤ d) :
    ∃ rest, (List.finRange 16).filter p = c :: rest := by
  have sorted : ((List.finRange 16).filter p).Pairwise (· < ·) := (List.pairwise_lt_finRange 16).filter p
  have mem : c ∈ (List.finRange 16).filter p := List.mem_filter.mpr ⟨List.mem_finRange c, hc⟩
  match h : (List.finRange 16).filter p with
  | [] =>
    rw [h] at mem
    cases mem
  | d :: rest =>
    rw [h] at sorted mem
    have hd : p d = true := (List.mem_filter.mp (h ▸ List.mem_cons_self .. : d ∈ (List.finRange 16).filter p)).2
    rcases List.mem_cons.mp mem with rfl | later
    · exact ⟨rest, rfl⟩
    · exact absurd (hm d hd) (not_le.mpr ((List.pairwise_cons.mp sorted).1 c later))

section

variable (run : List Rat) (s : State)

/-- The lowest matched permitted code becomes the candidate of QUALIFY (R77, R78). -/
theorem measure_of_permitted {c : RateCode} (hc : measurementMatches run c = true) (hp : s.line.settings.permitted.getLsbD c.val = true)
    (hm : ∀ d, measurementMatches run d = true → s.line.settings.permitted.getLsbD d.val = true → c ≤ d) :
    measure run s = enterQualify c s := by
  obtain ⟨rest, head⟩ := head_filter_finRange (c := c)
    (p := fun d => s.line.settings.permitted.getLsbD d.val && measurementMatches run d) (Bool.and_eq_true_iff.mpr ⟨hp, hc⟩) fun d hd => by
      obtain ⟨permitted, matched⟩ := Bool.and_eq_true_iff.mp hd
      exact hm d matched permitted
  have codes : (matchedCodes run).filter (fun d => s.line.settings.permitted.getLsbD d.val) = c :: rest := by
    rw [matchedCodes, List.filter_filter, head]
  simp only [measure, codes]

theorem measure_of_unmatched (h : ∀ c, measurementMatches run c = false) : measure run s = setLineState (.seek []) s := by
  have codes : matchedCodes run = [] := List.filter_eq_nil_iff.mpr fun c _ => by simp [h c]
  simp only [measure, codes, List.filter_nil, List.isEmpty_nil, if_true]

/-- Only codes that are not permitted match: RATE FAULT (R77). -/
theorem measure_of_forbidden (h : ∃ c, measurementMatches run c = true)
    (hp : ∀ c, measurementMatches run c = true → s.line.settings.permitted.getLsbD c.val = false) :
    measure run s = setLineState (.seek []) (raiseAll .line (latchAll (fun f => { f with rateFault := true }) s)) := by
  obtain ⟨c, hc⟩ := h
  have mem : c ∈ matchedCodes run := List.mem_filter.mpr ⟨List.mem_finRange c, hc⟩
  have matched : (matchedCodes run).isEmpty = false := by
    cases hm : matchedCodes run with
    | nil => rw [hm] at mem; cases mem
    | cons => rfl
  have codes : (matchedCodes run).filter (fun d => s.line.settings.permitted.getLsbD d.val) = [] :=
    List.filter_eq_nil_iff.mpr fun d hd => Bool.eq_false_iff.mp (hp d (List.mem_filter.mp hd).2)
  simp only [measure, codes, matched, Bool.false_eq_true, if_false]

end

/-! ### A character in SEEK -/

/-- A character heard in SEEK with DE low is taken, and then gives its sample; the report of a frame that it cuts moves nothing there
(R58, R61, R62, R76). -/
theorem exec_character_in_seek {s : State} {run : List Rat} (hs : Settled s) (hl : s.line.state = .seek run)
    (hw : s.transmitter.wire = .none) (address : Bool) (data : Byte) (stop : Bool) (runs : List Rat) (low : Nat) :
    ∃ taken, CharacterTaken address data stop (characterArrives (lowAfter stop low) s) taken ∧
      taken.line = (characterArrives (lowAfter stop low) s).line ∧
      exec (if address then .addressCharacter data stop runs low else .bodyCharacter data stop runs low) s =
        .next (detect runs taken) := by
  have in_use : s.line.state ≠ .down := by simp [hl]
  have not_up : s.line.state.isUp = false := by rw [hl]; rfl
  have seeks : s.line.state.isSeek = true := by rw [hl]; rfl
  obtain ⟨u, taken, line, kept, cut⟩ := takeCharacter_taken address data stop (characterArrives (lowAfter stop low) s)
  have state : u.line.state = .seek run := by
    rw [line, characterArrives_of_not_up in_use not_up]
    exact congrArg (LineState.after _ _) hl
  have takes : takeCharacter address data stop (characterArrives (lowAfter stop low) s) = u := by
    by_cases hc : address = true ∧ (characterArrives (lowAfter stop low) s).receiver ≠ none
    · rw [cut hc, reportFrame_of_seek false state]
    · exact kept hc
  refine ⟨u, taken, line, ?_⟩
  rw [exec_character hs, receiveCharacter_of_in_use _ _ _ in_use, hearCharacter, hw]
  simp only [seeks, takes, if_true]

/-- Settles O15: the rates lie apart, the runs and the bit time of a sample are the longest and the greatest, and the sample of a
character in SEEK decides what R76 and R77 say. -/
theorem rateIsMeasured : Obligations.RateIsMeasured := by
  unfold Obligations.RateIsMeasured
  refine ⟨fun run c d hc hd => ?rate, fun run c => ?code, fun runs hn hp => characterRuns_longest hn hp,
    fun runs hn hp => ⟨measureOf_pos hn hp, fun x hx => measureOf_divides hn hp hx, fun d hd h => le_measureOf hn hp hd h⟩,
    fun data stop address low runs run s hs hl hw => ?character⟩
  case rate =>
    obtain ⟨hc1, hc2⟩ := (measurementMatches_iff run c).mp hc
    obtain ⟨hd1, hd2⟩ := (measurementMatches_iff run d).mp hd
    exact rates_apart c d (hc1.trans hd2) (hd1.trans hc2)
  case code =>
    rw [measurementMatches_iff, rateOf_eq]
    rfl
  case character =>
    intro character passed heard
    obtain ⟨u, taken, line, heard_eq⟩ := exec_character_in_seek hs hl hw address data stop runs low
    have arrives : characterArrives (lowAfter stop low) s = heard :=
      characterArrives_of_not_up (by simp [hl]) (by rw [hl]; rfl) _
    rw [arrives] at taken line
    have state : u.line.state = .seek run := by
      rw [line]
      exact congrArg (LineState.after _ _) hl
    have settings : u.line.settings = s.line.settings := by
      rw [line]
      rfl
    have next : exec character s = .next (detect runs u) := heard_eq
    refine ⟨u, taken, fun short => ?_, fun long x hx => ?_⟩
    · rw [next, detect_of_unusable state (sampleOf_of_short short)]
      rfl
    · intro joined mean agrees longer permitted
      subst hx
      have added : addSample run (measureOf (characterRuns runs)) = longer := rfl
      have sampled := detect_of_sample state (sampleOf_of_runs long)
      rw [added] at sampled
      refine ⟨fun few => ?_, fun eight => ?_⟩
      · rw [next, sampled, if_neg few]
        rfl
      · have measured : exec character s = .next (measure longer u) := by rw [next, sampled, if_pos eight]
        refine ⟨fun c hc hp hm => ?_, fun unmatched => ?_, fun matched forbidden => ?_⟩
        · rw [measured, measure_of_permitted longer u hc (by rw [settings]; exact hp) (by rw [settings]; exact hm), enterQualify,
            abandonReception_eq]
          rfl
        · rw [measured, measure_of_unmatched longer u unmatched]
          rfl
        · rw [measured, measure_of_forbidden longer u matched (by rw [settings]; exact forbidden)]
          rfl

end Sys2Proof.Machine
end

section
/-!
PROOFS. The bytes of the settings records: which of them are accepted, and what the record they give holds (R67, R68, R71, R169, R170,
R175).
-/

namespace Sys2Proof.Machine

/-! ### One field -/

theorem ranged_eq_some {lo hi n : Nat} {b : Byte} : ranged lo hi b = some n ↔ (lo ≤ b.toNat ∧ b.toNat ≤ hi) ∧ n = b.toNat := by
  unfold ranged
  split <;> simp_all [eq_comm]

theorem rateModeOf_eq_some {b : Byte} {y : RateMode} :
    rateModeOf b = some y ↔ b.toNat ≤ 1 ∧ y = if b = 0 then .fixed else .learn := by
  revert b
  cases y <;> decide +kernel

theorem syncModeOf_eq_some {b : Byte} {y : SyncMode} :
    syncModeOf b = some y ↔ b.toNat ≤ 2 ∧ y = if b = 0 then .off else if b = 1 then .rising else .falling := by
  revert b
  cases y <;> decide +kernel

theorem onOff_eq_some {b : Byte} {v : Bool} : onOff b = some v ↔ b.toNat ≤ 1 ∧ v = decide (b = 1) := by
  revert b
  cases v <;> decide +kernel

theorem natByte_toNat {n : Nat} (h : n < 256) : (natByte n).toNat = n := by
  rw [natByte, BitVec.toNat_ofNat]
  exact Nat.mod_eq_of_lt h

/-! ### The shared settings record -/

/-- Every field of a shared settings record's bytes lies in its range, and LEARN mode names a permitted code (R67, R68). -/
def SettingsAccepted (r : SettingsBytes) : Prop :=
  (r.rateMode.toNat ≤ 1 ∧ r.fixedCode.toNat ≤ 15 ∧ (4 ≤ r.accessGap.toNat ∧ r.accessGap.toNat ≤ 15) ∧
    r.turnaround.toNat ≤ 15 ∧ r.retryLimit.toNat ≤ 7 ∧ (6 ≤ r.tenureExponent.toNat ∧ r.tenureExponent.toNat ≤ 16) ∧
    (8 ≤ r.silenceExponent.toNat ∧ r.silenceExponent.toNat ≤ 20) ∧
    (6 ≤ r.holdExponent.toNat ∧ r.holdExponent.toNat ≤ 16) ∧ r.listenOnly.toNat ≤ 1 ∧ r.sync.toNat ≤ 2 ∧
    r.receiveReserve.toNat ≤ 32 ∧ r.patrol.toNat ≤ 1) ∧ ¬(r.rateMode.toNat = 1 ∧ r.permitted = 0)

/-- A shared settings record has the values of its bytes, field by field (R67, R170). -/
def SettingsRead (r : SettingsBytes) (t : Settings) : Prop :=
  t.rateMode = (if r.rateMode = 0 then .fixed else .learn) ∧ t.fixedCode.val = r.fixedCode.toNat ∧
    t.permitted = r.permitted ∧ t.accessGap = r.accessGap.toNat ∧ t.turnaround = r.turnaround.toNat ∧
    t.retryLimit = r.retryLimit.toNat ∧ t.tenureExponent = r.tenureExponent.toNat ∧
    t.silenceExponent = r.silenceExponent.toNat ∧ t.holdExponent = r.holdExponent.toNat ∧
    t.listenOnly = decide (r.listenOnly = 1) ∧
    t.sync = (if r.sync = 0 then .off else if r.sync = 1 then .rising else .falling) ∧
    t.receiveReserve = r.receiveReserve.toNat ∧ t.patrol = decide (r.patrol = 1)

theorem rateMode_eq_learn_iff {b : Byte} (h : b.toNat ≤ 1) : (if b = 0 then RateMode.fixed else .learn) = .learn ↔ b.toNat = 1 := by
  revert b
  decide +kernel

/-- The code that a code byte gives (R72). -/
def rateCodeOf (b : Byte) : Option RateCode := if h : b.toNat < 16 then some ⟨b.toNat, h⟩ else none

theorem rateCodeOf_eq_some {b : Byte} {c : RateCode} : rateCodeOf b = some c ↔ b.toNat ≤ 15 ∧ c.val = b.toNat := by
  unfold rateCodeOf
  split
  · rw [Option.some.injEq, Fin.ext_iff, eq_comm]
    exact ⟨fun h => ⟨by omega, h⟩, fun h => h.2⟩
  · simp only [reduceCtorEq, false_iff]
    omega

/-- The fields are read one after the other, and the first that is refused refuses the record (R68). -/
theorem settingsOf_eq (r : SettingsBytes) : settingsOf r =
    (rateModeOf r.rateMode).bind fun mode => (rateCodeOf r.fixedCode).bind fun code => (ranged 4 15 r.accessGap).bind fun gap =>
    (ranged 0 15 r.turnaround).bind fun turn => (ranged 0 7 r.retryLimit).bind fun retry =>
    (ranged 6 16 r.tenureExponent).bind fun tenure => (ranged 8 20 r.silenceExponent).bind fun silence =>
    (ranged 6 16 r.holdExponent).bind fun hold => (onOff r.listenOnly).bind fun listen => (syncModeOf r.sync).bind fun sync =>
    (ranged 0 32 r.receiveReserve).bind fun reserve => (onOff r.patrol).bind fun patrol =>
      if mode = .learn ∧ r.permitted = 0 then none
      else some ⟨mode, code, r.permitted, gap, turn, retry, tenure, silence, hold, listen, sync, reserve, patrol⟩ := by
  unfold settingsOf rateCodeOf
  cases rateModeOf r.rateMode with
  | none => rfl
  | some mode => exact (apply_dite (Option.bind · _) _ _ _).symm

/-- The bytes of a shared settings record are accepted exactly in their ranges, with the values that they spell (R67, R68). -/
theorem settingsOf_eq_some {r : SettingsBytes} {t : Settings} : settingsOf r = some t ↔ SettingsAccepted r ∧ SettingsRead r t := by
  rw [settingsOf_eq]
  simp only [↓Option.bind_eq_some_iff, ranged_eq_some, rateModeOf_eq_some, syncModeOf_eq_some, onOff_eq_some,
    rateCodeOf_eq_some]
  constructor
  · rintro ⟨mode, hmode, code, hcode, gap, hgap, turn, hturn, retry, hretry, tenure, htenure, silence, hsilence, hold, hhold, listen,
      hlisten, sync, hsync, reserve, hreserve, patrol, hpatrol, ht⟩
    split at ht <;> cases ht
    rename_i allowed
    refine ⟨⟨⟨hmode.1, hcode.1, hgap.1, hturn.1.2, hretry.1.2, htenure.1, hsilence.1, hhold.1, hlisten.1, hsync.1, hreserve.1.2,
      hpatrol.1⟩, fun h => allowed ⟨?_, h.2⟩⟩, hmode.2, hcode.2, rfl, hgap.2, hturn.2, hretry.2, htenure.2, hsilence.2, hhold.2,
      hlisten.2, hsync.2, hreserve.2, hpatrol.2⟩
    rw [hmode.2]
    exact (rateMode_eq_learn_iff hmode.1).mpr h.1
  · rintro ⟨⟨⟨amode, acode, agap, aturn, aretry, atenure, asilence, ahold, alisten, async, areserve, apatrol⟩, allowed⟩,
      mode, code, permitted, gap, turn, retry, tenure, silence, hold, listen, sync, reserve, patrol⟩
    refine ⟨_, ⟨amode, mode⟩, _, ⟨acode, code⟩, _, ⟨agap, gap⟩, _, ⟨⟨Nat.zero_le _, aturn⟩, turn⟩,
      _, ⟨⟨Nat.zero_le _, aretry⟩, retry⟩, _, ⟨atenure, tenure⟩, _, ⟨asilence, silence⟩, _, ⟨ahold, hold⟩, _, ⟨alisten, listen⟩, _, ⟨async, sync⟩,
      _, ⟨⟨Nat.zero_le _, areserve⟩, reserve⟩, _, ⟨apatrol, patrol⟩, ?_⟩
    rw [if_neg, ← permitted]
    rw [mode, rateMode_eq_learn_iff amode]
    exact allowed

/-- Bytes in their ranges spell a record. -/
theorem exists_settingsRead {r : SettingsBytes} (h : SettingsAccepted r) : ∃ t, SettingsRead r t :=
  ⟨⟨_, ⟨r.fixedCode.toNat, Nat.lt_succ_of_le h.1.2.1⟩, _, _, _, _, _, _, _, _, _, _, _⟩,
    rfl, rfl, rfl, rfl, rfl, rfl, rfl, rfl, rfl, rfl, rfl, rfl, rfl⟩

/-- A record that bytes give lies in its ranges (R67, R68). -/
theorem settingsOf_inRange {r : SettingsBytes} {t : Settings} (h : settingsOf r = some t) : t.inRange := by
  obtain ⟨⟨⟨amode, -, agap, aturn, aretry, atenure, asilence, ahold, -, -, areserve, -⟩, allowed⟩,
    mode, -, permitted, gap, turn, retry, tenure, silence, hold, -, -, reserve, -⟩ := settingsOf_eq_some.mp h
  unfold Settings.inRange
  rw [gap, turn, retry, tenure, silence, hold, reserve, permitted, mode, rateMode_eq_learn_iff amode]
  exact ⟨agap, aturn, aretry, atenure, asilence, ahold, areserve, fun learn empty => allowed ⟨learn, empty⟩⟩

/-- The bytes of a record in range are accepted and spell the record (R71). -/
theorem settingsOf_toBytes {t : Settings} (h : t.inRange) : settingsOf t.toBytes = some t := by
  obtain ⟨gap, turn, retry, tenure, silence, hold, reserve, learn⟩ := h
  have code := t.fixedCode.isLt
  have mode : t.rateMode.byte.toNat ≤ 1 ∧ t.rateMode = if t.rateMode.byte = 0 then .fixed else .learn := by
    cases t.rateMode <;> decide
  have sync : t.sync.byte.toNat ≤ 2 ∧ t.sync = if t.sync.byte = 0 then .off else if t.sync.byte = 1 then .rising else .falling := by
    cases t.sync <;> decide
  have flag (v : Bool) : (boolByte v).toNat ≤ 1 ∧ v = decide (boolByte v = 1) := by cases v <;> decide
  have spelled {n : Nat} (hn : n < 256) : n = (natByte n).toNat := (natByte_toNat hn).symm
  have allowed : ¬(t.rateMode.byte.toNat = 1 ∧ t.permitted = 0) := fun h =>
    learn (mode.2.trans ((rateMode_eq_learn_iff mode.1).mpr h.1)) h.2
  refine settingsOf_eq_some.mpr ⟨⟨?_, allowed⟩, mode.2, spelled (by omega), rfl, spelled (by omega), spelled (by omega),
    spelled (by omega), spelled (by omega), spelled (by omega), spelled (by omega),
    (flag _).2, sync.2, spelled (by omega), (flag _).2⟩
  simp only [Settings.toBytes]
  repeat rw [natByte_toNat (by omega)]
  exact ⟨mode.1, by omega, gap, turn, retry, tenure, silence, hold, (flag _).1, sync.1, reserve, (flag _).1⟩

/-- Settles O12: the bytes of a record field by field, in both directions. -/
theorem settingsRanges : Obligations.SettingsRanges := by
  unfold Obligations.SettingsRanges
  refine ⟨fun r => ?_, fun r t h => (settingsOf_eq_some.mp h).2, fun r => rfl, fun t => settingsOf_toBytes⟩
  rw [Option.isSome_iff_exists]
  refine ⟨fun ⟨t, h⟩ => (settingsOf_eq_some.mp h).1, fun h => ?_⟩
  obtain ⟨t, read⟩ := exists_settingsRead h
  exact ⟨t, settingsOf_eq_some.mpr ⟨h, read⟩⟩

end Sys2Proof.Machine
end

section
/-!
PROOFS. The settings records, the active notice sources and the ports while RESET# is low: what each operation of the model leaves of
them, what a command can do to them, and that every step keeps their laws (R67, R68, R152, R162, R167, R175).
-/

namespace Sys2Proof.Machine

/-! ### What the three laws speak of -/

/-- The part of a state that the laws of the settings, of the notice sources and of RESET# speak of: of the notice sources it has the
active ones, so that a request raised changes nothing in it. -/
structure Registers where
  resetLow : Bool
  clearing : Bool
  ports : PerMaster Port
  settings : Settings
  active : PerMaster (List NoticeSource)

def State.registers (s : State) : Registers :=
  ⟨s.resetLow, s.clearing, s.ports, s.line.settings, s.notices.map Notices.active⟩

namespace Registers

/-- The law of the settings, as a property of the registers alone (R67, R68, R175). -/
def LawfulSettings (r : Registers) : Prop := r.settings.inRange ∧ ∀ m ∈ Master.all, (r.ports.get m).settings.inRange

/-- The law of the notice sources, as a property of the registers alone (R152). -/
def LawfulNotices (r : Registers) : Prop := ∀ m ∈ Master.all, (r.active.get m).Pairwise fun x y => x.number < y.number

/-- The law of the ports while RESET# is low, as a property of the registers alone (R162, R167). -/
def LawfulReset (r : Registers) : Prop :=
  r.resetLow = true → r.clearing = true ∧ ∀ m ∈ Master.all, (r.ports.get m).transaction = .deselected

end Registers

theorem settingsLaw_iff (s : State) : SettingsLaw s ↔ s.registers.LawfulSettings := Iff.rfl

theorem noticeLaw_iff (s : State) : NoticeLaw s ↔ s.registers.LawfulNotices := by
  simp only [NoticeLaw, Registers.LawfulNotices, State.registers, PerMaster.get_map]

theorem resetLaw_iff (s : State) : ResetLaw s ↔ s.registers.LawfulReset := Iff.rfl

/-! ### Requests and reads -/

@[simp] theorem raiseAt_registers (m : Master) (src : NoticeSource) (s : State) : (raiseAt m src s).registers = s.registers := by
  cases m <;> rfl

@[simp] theorem raiseIn_registers (ms : MasterSet) (src : NoticeSource) (s : State) : (raiseIn ms src s).registers = s.registers := by
  have raised (m : Master) : ((raiseIn ms src s).notices.get m).active = (s.notices.get m).active := by
    rw [raiseIn_notices, PerMaster.get_tabulate]
    split <;> rfl
  have active : (raiseIn ms src s).notices.map Notices.active = s.notices.map Notices.active :=
    PerMaster.eq_of_get fun m => by rw [PerMaster.get_map, PerMaster.get_map, raised]
  simp only [State.registers, active]
  rfl

@[simp] theorem missedAt_registers (ms : MasterSet) (s : State) : (missedAt ms s).registers = s.registers :=
  raiseIn_registers ms .missed (countIn ms .missed s)

@[simp] theorem noBufferAt_registers (ms : MasterSet) (s : State) : (noBufferAt ms s).registers = s.registers :=
  missedAt_registers ms (countIn ms .noBuffer s)

@[simp] theorem leaveUse_registers (b : Option BufferId) (s : State) : (leaveUse b s).registers = s.registers := by cases b <;> rfl

theorem offerDamaged_registers (w : WordNo) (s : State) : (offerDamaged w s).registers = s.registers := by
  unfold offerDamaged
  split
  · rfl
  · split <;> rfl

@[simp] theorem readWord_registers (w : WordNo) (s : State) : (readWord w s).2.registers = s.registers := by
  unfold readWord
  split
  · rfl
  · rfl
  · unfold uncorrectableFinding
    simp only
    split
    · rfl
    · exact (raiseIn_registers ..).trans (offerDamaged_registers ..)

@[simp] theorem readWords_registers (ws : List WordNo) (s : State) : (readWords ws s).2.registers = s.registers := by
  induction ws generalizing s with
  | nil => rfl
  | cons w rest ih => exact (ih _).trans (readWord_registers w s)

@[simp] theorem readHeaders_registers (bs : List BufferId) (s : State) : (readHeaders bs s).2.registers = s.registers := by
  induction bs generalizing s with
  | nil => rfl
  | cons b rest ih => exact (ih _).trans (readWord_registers (wordOf b 0) s)

/-! ### Jobs -/

@[simp] theorem setRunning_registers (r : Option Running) (s : State) : (setRunning r s).registers = s.registers := rfl

@[simp] theorem endJob_registers (outcome : JobOutcome) (failing : Option Nat) (s : State) :
    (endJob outcome failing s).registers = s.registers := by
  unfold endJob
  split
  · rfl
  · exact raiseAt_registers ..

@[simp] theorem silenceAwait_registers (s : State) : (silenceAwait s).registers = s.registers := by
  unfold silenceAwait
  split
  · split <;> rfl
  · rfl

@[simp] theorem endInProgress_registers (p : PendingEnd) (s : State) : (endInProgress p s).registers = s.registers := by
  unfold endInProgress
  split
  · rfl
  · split
    · exact endJob_registers ..
    · exact (endJob_registers ..).trans (silenceAwait_registers s)
    · exact endJob_registers ..
    · split
      · exact endJob_registers _ _ (dropWaiting s)
      · rfl

@[simp] theorem lineLost_registers (s : State) : (lineLost s).registers = s.registers := by
  unfold lineLost
  split
  · rfl
  · exact (endJob_registers ..).trans (silenceAwait_registers s)

@[simp] theorem beginAttempt_registers (r : Running) (b : BufferId) (h : Header) (s : State) :
    (beginAttempt r b h s).registers = s.registers := by
  unfold beginAttempt
  simp only
  split
  · exact endJob_registers ..
  · split
    · exact endJob_registers ..
    · split
      · exact endJob_registers ..
      · split
        · exact (endJob_registers ..).trans (readWords_registers ..)
        · exact readWords_registers (wordsOf b 0 ((4 + h.length.toNat) / 8)) s

@[simp] theorem takeAttempt_registers (s : State) : (takeAttempt s).registers = s.registers := by
  unfold takeAttempt
  split
  · rfl
  · split
    · exact beginAttempt_registers ..
    · rfl

@[simp] theorem orderReached_registers (fuel : Nat) (s : State) : (orderReached fuel s).registers = s.registers := by
  induction fuel generalizing s with
  | zero => rfl
  | succ n ih =>
    unfold orderReached
    split
    · rfl
    · simp only
      split
      · exact endJob_registers ..
      · split
        · exact endJob_registers ..
        · split
          · rfl
          · split
            · exact endJob_registers ..
            · rfl
          · exact ih _
          · rfl
          · exact endJob_registers ..

@[simp] theorem nextOrder_registers (s : State) : (nextOrder s).registers = s.registers := by
  unfold nextOrder
  split
  · rfl
  · exact (takeAttempt_registers _).trans (orderReached_registers ..)

/-! ### The line controller -/

@[simp] theorem lineTime_registers (n : Nat) (s : State) : (lineTime n s).registers = s.registers := rfl

@[simp] theorem restartIdle_registers (low : Nat) (s : State) : (restartIdle low s).registers = s.registers := by
  unfold restartIdle
  split <;> rfl

@[simp] theorem reportCharacter_registers (s : State) : (reportCharacter s).registers = s.registers := by
  unfold reportCharacter
  split <;> rfl

@[simp] theorem abandonReception_registers (s : State) : (abandonReception s).registers = s.registers := by
  rw [abandonReception_eq]
  rfl

@[simp] theorem leaveState_registers (s : State) : (leaveState s).registers = s.registers := by
  unfold leaveState
  split
  · rfl
  · exact abandonReception_registers s
  · exact abandonReception_registers s
  · exact (lineLost_registers _).trans (abandonReception_registers (cutAll (raiseAll .line (latchAll _ s))))

@[simp] theorem goDown_registers (s : State) : (goDown s).registers = s.registers := leaveState_registers s

@[simp] theorem goSeek_registers (s : State) : (goSeek s).registers = s.registers := leaveState_registers s

@[simp] theorem lineEntry_registers (s : State) : (lineEntry s).registers = s.registers := by
  unfold lineEntry
  simp only
  split <;> rfl

@[simp] theorem leaveWantSet_registers (m : Master) (s : State) : (leaveWantSet m s).registers = s.registers := by
  unfold leaveWantSet
  simp only
  split
  · exact goDown_registers _
  · rfl

@[simp] theorem detect_registers (runs : List Rat) (s : State) : (detect runs s).registers = s.registers := by
  unfold detect
  split
  · split
    · rfl
    · simp only
      split
      · unfold measure
        simp only
        split
        · exact abandonReception_registers s
        · split <;> rfl
      · rfl
  · rfl

@[simp] theorem reportFrame_registers (good : Bool) (s : State) : (reportFrame good s).registers = s.registers := by
  unfold reportFrame
  split
  · rfl
  · rfl
  · split
    · split
      · rfl
      · exact abandonReception_registers s
    · exact goSeek_registers s
  · split
    · rfl
    · split
      · rfl
      · split
        · rfl
        · exact goSeek_registers (setLineState _ s)

/-! ### Delivery -/

@[simp] theorem fanOut_registers (targets : MasterSet) (e : DeliveryEntry) (s : State) :
    (fanOut targets e s).registers = s.registers := by
  have counted (u : State) (st : Store) :
      ({ missedAt (losers targets s) (raiseIn (takers targets s) .delivery u) with store := st } : State).registers = u.registers :=
    (missedAt_registers _ (raiseIn (takers targets s) .delivery u)).trans (raiseIn_registers ..)
  unfold fanOut
  simp only
  split
  · exact counted ..
  · exact counted ..

@[simp] theorem deliverTo_registers (targets : MasterSet) (h : Header) (b : Option BufferId) (late : Bool) (s : State) :
    (deliverTo targets h b late s).registers = s.registers := by
  cases b with
  | none => exact noBufferAt_registers ..
  | some b => exact fanOut_registers ..

@[simp] theorem loopBackCopy_registers (sender : Master) (copy : List Byte) (s : State) :
    (loopBackCopy sender copy s).registers = s.registers := by
  unfold loopBackCopy
  simp only
  split
  · exact missedAt_registers ..
  · exact fanOut_registers ..

@[simp] theorem capture_registers (r : Running) (outcome : AwaitOutcome) (b : Option BufferId) (s : State) :
    (capture r outcome b s).registers = s.registers := by
  unfold capture
  rw [nextOrder_registers, setRunning_registers, leaveUse_registers]
  cases b with
  | none => exact noBufferAt_registers ..
  | some b => rfl

theorem deliverReply_registers (outcome : AwaitOutcome) (h : Header) (b : Option BufferId) (s : State) :
    (deliverReply outcome h b s).registers = s.registers := by
  unfold deliverReply
  split
  · exact capture_registers ..
  · simp only
    split
    · exact deliverTo_registers ..
    · split
      · exact deliverTo_registers ..
      · split
        · exact deliverTo_registers ..
        · exact deliverTo_registers ..

theorem deliverRequest_registers (h : Header) (b : Option BufferId) (s : State) : (deliverRequest h b s).registers = s.registers := by
  unfold deliverRequest
  simp only
  split
  · exact leaveUse_registers ..
  · split
    · split <;> exact noBufferAt_registers ..
    · rename_i m _ _ b
      have refused : (missedAt (.singleton m) { s with store := s.store.leaveUse b }).registers = s.registers :=
        missedAt_registers ..
      split
      · exact deliverTo_registers ..
      · split <;> exact refused

@[simp] theorem deliver_registers (h : Header) (b : Option BufferId) (s : State) : (deliver h b s).registers = s.registers := by
  unfold deliver
  split
  · exact leaveUse_registers b s
  · exact leaveUse_registers b s
  · exact deliverReply_registers ..
  · exact deliverReply_registers ..
  · split
    · exact deliverRequest_registers ..
    · exact deliverTo_registers ..
  · exact deliverTo_registers ..
  · exact leaveUse_registers b s

/-! ### The receiver and the transmitter -/

theorem startFrame_registers (data : Byte) (stop : Bool) (s : State) : (startFrame data stop s).registers = s.registers := by
  unfold startFrame
  simp only
  split
  · split
    · split <;> rfl
    · rfl
  · rfl

theorem takeAddress_registers (data : Byte) (stop : Bool) (s : State) : (takeAddress data stop s).registers = s.registers := by
  unfold takeAddress
  split
  · exact startFrame_registers ..
  · rw [reportFrame_registers, startFrame_registers, endBadFrame, leaveUse_registers]
    rfl

theorem takeBody_registers (data : Byte) (stop : Bool) (s : State) : (takeBody data stop s).registers = s.registers := by
  unfold takeBody
  split
  · rfl
  · rename_i f _
    obtain ⟨g, extended, -⟩ := extendFrame_extended data stop f s
    rw [extended]
    rfl

theorem receiveCharacter_registers {take : State → State} (ht : ∀ s, (take s).registers = s.registers) (low : Nat) (runs : List Rat)
    (s : State) : (receiveCharacter take low runs s).registers = s.registers := by
  have passed : (characterTime low s).registers = s.registers := restartIdle_registers ..
  have taken : (take (characterArrives low s)).registers = s.registers := by
    rw [ht, characterArrives, reportCharacter_registers, passed]
  unfold receiveCharacter
  split
  · rfl
  · unfold hearCharacter
    split
    · simp only
      split
      · exact (detect_registers ..).trans taken
      · exact taken
    · exact restartIdle_registers ..
    · exact passed

theorem frameEnd_registers {s t : State} (h : exec .frameEnd s = .next t) : t.registers = s.registers := by
  have began : (attemptBeforeFrameEnd s).registers = s.registers := by
    unfold attemptBeforeFrameEnd
    split
    · rfl
    · exact takeAttempt_registers s
  have ended (f : Frame) (u : State) : (endFrame f u).registers = u.registers := by
    unfold endFrame
    split
    · rw [reportFrame_registers, endBadFrame, leaveUse_registers]
      rfl
    · rw [reportFrame_registers]
      split
      · exact deliver_registers ..
      · rfl
  simp only [exec, execFrameEnd] at h
  split at h <;> cases h
  · rfl
  · exact (ended ..).trans began

theorem sendAttempt_registers (s : State) : (sendAttempt s).registers = s.registers := by
  unfold sendAttempt
  split
  · split <;> rfl
  · rfl

theorem sendBusy_registers (s : State) : (sendBusy s).registers = s.registers := by
  unfold sendBusy
  split
  · split <;> rfl
  · rfl

theorem characterSent_registers (echo : BitVec 11) (low : Nat) (s : State) : (characterSent echo low s).registers = s.registers := by
  have left (n : Nat) : (characterLeaves n s).registers = s.registers := by
    rw [characterLeaves, reportCharacter_registers, restartIdle_registers, lineTime_registers]
  unfold characterSent
  split
  · unfold finishCharacter
    split
    · exact left _
    · split <;> exact left _
  · rfl

theorem turnaroundEnds_registers (s : State) : (turnaroundEnds s).registers = s.registers := by
  have collided (r : Running) (u : State) : (attemptCollided r u).registers = u.registers := by
    unfold attemptCollided
    split
    · exact endJob_registers ..
    · split
      · simp only
        split
        · exact beginAttempt_registers ..
        · rfl
      · exact endJob_registers ..
  have completed (r : Running) (a : Attempt) (u : State) : (attemptCompleted r a u).registers = u.registers := by
    have copied (v : State) : (if a.loopBack then loopBackCopy r.job.master a.copy v else v).registers = v.registers := by
      split
      · exact loopBackCopy_registers ..
      · rfl
    unfold attemptCompleted
    simp only
    split
    · exact (endJob_registers ..).trans (copied _)
    · exact (nextOrder_registers _).trans (copied _)
  unfold turnaroundEnds
  split
  · unfold releaseDriver
    split
    · rfl
    · split
      · rfl
      · split
        · rfl
        · split
          · exact collided ..
          · exact completed ..
  · rfl

/-! ### The job engine's events and the line timers -/

theorem grant_registers {s t : State} (h : exec .grant s = .next t) : t.registers = s.registers := by
  simp only [exec, execGrant] at h
  split at h
  · split at h <;> cases h
    · exact orderReached_registers ..
    · rfl
  · cases h
    rfl

theorem responseExpires_registers (s : State) : (responseExpires s).registers = s.registers := by
  unfold responseExpires
  split
  · rw [nextOrder_registers, silenceAwait_registers, lineTime_registers]
  · rfl

theorem waitExpires_registers (s : State) : (waitExpires s).registers = s.registers := by
  unfold waitExpires
  split
  · rw [nextOrder_registers, lineTime_registers]
  · rfl

theorem tenureExpires_registers (s : State) : (tenureExpires s).registers = s.registers := by
  unfold tenureExpires
  split
  · rw [endInProgress_registers, lineTime_registers]
  · rfl

theorem silenceExpires_registers (s : State) : (silenceExpires s).registers = s.registers := by
  unfold silenceExpires
  split
  · unfold timeOut
    simp only
    split
    · exact goSeek_registers _
    · exact reportCharacter_registers _
  · rfl

theorem windowExpires_registers (s : State) : (windowExpires s).registers = s.registers := by
  unfold windowExpires
  split
  · rw [goSeek_registers, lineTime_registers]
  · rfl

theorem holdExpires_registers (s : State) : (holdExpires s).registers = s.registers := by
  unfold holdExpires
  split <;> rfl

end Sys2Proof.Machine
end

section
/-!
PROOFS. What a command and what an event can do to the settings, the active notice sources and the ports, and that every step keeps
their laws (R67, R68, R152, R154, R156, R160, R162, R163, R167, R175).
-/

namespace Sys2Proof

namespace PerMaster

/-- What holds of every master's thing holds still if it holds of the one that is changed. -/
theorem forall_modify {α : Type} {p : PerMaster α} {P : α → Prop} {m : Master} {f : α → α}
    (h : ∀ n ∈ Master.all, P (p.get n)) (hm : P (p.get m) → P (f (p.get m))) : ∀ n ∈ Master.all, P ((p.modify m f).get n) := by
  intro n hn
  by_cases e : n = m
  · subst e
    rw [get_modify_self]
    exact hm (h n hn)
  · rw [get_modify_of_ne _ e]
    exact h n hn

theorem map_set {α β : Type} (f : α → β) (p : PerMaster α) (m : Master) (v : α) :
    (p.set m v).map f = (p.map f).set m (f v) := by
  cases m <;> rfl

end PerMaster

namespace Machine

/-! ### What a command can do -/

theorem portSettings_reset_inRange : PortSettings.reset.inRange := by
  unfold PortSettings.inRange
  decide

/-- What the effect of a command can do to the registers: LINE SET writes the shared record and PORT SET a port's, in their ranges
(R68, R175), a port reset gives a master's their power-on values (R175, R160), NOTICE takes a source of higher priority than every
active one (R154), RELEASE clears an active source (R156), and every other effect changes none. -/
inductive Registers.Commanded (r : Registers) : Registers → Prop where
  | same : Commanded r r
  | lineSet {settings : Settings} (h : settings.inRange) : Commanded r { r with settings := settings }
  | portSet (m : Master) {settings : PortSettings} (h : settings.inRange) :
      Commanded r { r with ports := r.ports.modify m fun p => { p with settings := settings } }
  | portReset (m : Master) : Commanded r { r with
      ports := r.ports.modify m fun p => { p with settings := PortSettings.reset }, active := r.active.modify m fun _ => [] }
  | notice (m : Master) {src : NoticeSource} (h : ∀ y ∈ r.active.get m, src.number < y.number) :
      Commanded r { r with active := r.active.modify m (src :: ·) }
  | release (m : Master) (src : NoticeSource) : Commanded r { r with active := r.active.modify m (·.erase src) }

namespace Registers.Commanded

variable {r r' : Registers}

theorem of_eq (h : r' = r) : Commanded r r' := h ▸ .same

theorem resetLow (h : Commanded r r') : r'.resetLow = r.resetLow := by cases h <;> rfl

theorem lawfulSettings (h : Commanded r r') (l : r.LawfulSettings) : r'.LawfulSettings := by
  obtain ⟨settings, ports⟩ := l
  cases h with
  | same => exact ⟨settings, ports⟩
  | lineSet h => exact ⟨h, ports⟩
  | portSet m h => exact ⟨settings, PerMaster.forall_modify (P := fun p : Port => p.settings.inRange) ports fun _ => h⟩
  | portReset m =>
    exact ⟨settings, PerMaster.forall_modify (P := fun p : Port => p.settings.inRange) ports fun _ => portSettings_reset_inRange⟩
  | notice => exact ⟨settings, ports⟩
  | release => exact ⟨settings, ports⟩

theorem lawfulNotices (h : Commanded r r') (l : r.LawfulNotices) : r'.LawfulNotices := by
  cases h with
  | same => exact l
  | lineSet => exact l
  | portSet => exact l
  | portReset m => exact PerMaster.forall_modify l fun _ => .nil
  | notice m h => exact PerMaster.forall_modify l fun chain => List.pairwise_cons.mpr ⟨h, chain⟩
  | release m src => exact PerMaster.forall_modify l fun chain => chain.sublist List.erase_sublist

end Registers.Commanded

theorem portSettingsOf_inRange {q t b : Byte} {r : PortSettings} (h : portSettingsOf q t b = some r) : r.inRange := by
  obtain ⟨quota, hq, h⟩ := Option.bind_eq_some_iff.mp h
  obtain ⟨threshold, ht, h⟩ := Option.bind_eq_some_iff.mp h
  obtain ⟨broadcast, -, h⟩ := Option.bind_eq_some_iff.mp h
  obtain ⟨quota_range, rfl⟩ := ranged_eq_some.mp hq
  obtain ⟨threshold_range, rfl⟩ := ranged_eq_some.mp ht
  obtain rfl := Option.some.inj h
  exact ⟨quota_range, threshold_range⟩

theorem lineSet_commanded (m : Master) (record : SettingsBytes) (s : State) :
    s.registers.Commanded (lineSet m record s).state.registers := by
  have applied (r : Settings) : (applySettings r s).registers = { s.registers with settings := r } := by
    unfold applySettings
    simp only
    split
    · rfl
    · rw [lineEntry_registers, goDown_registers]
      rfl
  unfold lineSet
  split
  · exact .same
  · rename_i r hr
    split
    · simp only [applied]
      exact .lineSet (settingsOf_inRange hr)
    · exact .same

theorem portReset_commanded (m : Master) (s : State) : s.registers.Commanded (portReset m s).state.registers := by
  have jobs : (resetJobs m s).registers = s.registers := by
    rw [resetJobs_eq]
    rfl
  have line (u : State) : (resetLine m u).registers = u.registers := leaveWantSet_registers m u
  have reports (u : State) : (resetReports m u).registers = { u.registers with
      ports := u.registers.ports.modify m fun p => { p with settings := PortSettings.reset },
      active := u.registers.active.modify m fun _ => [] } := by
    simp only [resetReports, setPortSettings, State.registers, PerMaster.map_set]
    rfl
  have before : (resetLine m (resetStore m (setTable (withoutMaster (resetDelivery m (resetJobs m s)).table m)
      (resetDelivery m (resetJobs m s))))).registers = s.registers := (line _).trans jobs
  simp only [portReset, reports, before]
  exact .portReset m

theorem notice_commanded (m : Master) (s : State) : s.registers.Commanded (notice m s).state.registers := by
  unfold notice
  split
  · rename_i src hn
    have takeable : (s.notices.get m).takeable src = true := List.find?_some hn
    have highest : ∀ y ∈ s.registers.active.get m, src.number < y.number := by
      simp only [Notices.takeable, Bool.and_eq_true, List.all_eq_true, decide_eq_true_eq] at takeable
      rw [State.registers, PerMaster.get_map]
      exact takeable.2
    have taken : ({ s with notices := s.notices.modify m fun n => n.take src } : State).registers =
        { s.registers with active := s.registers.active.modify m (src :: ·) } := by cases m <;> rfl
    simp only [taken]
    exact .notice m highest
  · exact .same

theorem release_commanded (m : Master) (source : Byte) (s : State) : s.registers.Commanded (release m source s).state.registers := by
  unfold release
  split
  · exact .same
  · rename_i src _
    split
    · have released : ({ s with notices := s.notices.modify m fun n => n.drop src } : State).registers =
          { s.registers with active := s.registers.active.modify m (·.erase src) } := by cases m <;> rfl
      simp only [released]
      exact .release m src
    · exact .same

theorem writeWords_registers (b : BufferId) (offset : Nat) (data : List Byte) (ks : List Nat) (s : State) :
    (writeWords b offset data ks s).registers = s.registers := by
  have one (k : Nat) (u : State) : (writeOneWord b k offset data u).registers = u.registers := by
    unfold writeOneWord
    simp only
    split
    · rfl
    · split <;> exact readWord_registers (wordOf b k) u
  induction ks generalizing s with
  | nil => rfl
  | cons k rest ih => exact (ih _).trans (one k s)

theorem submit_registers (m : Master) (count : Byte) (orders : List OrderBytes) (s : State) :
    (submit m count orders s).state.registers = s.registers := by
  have read (bs : List BufferId) : (readHeaders bs s).2.registers = s.registers := readHeaders_registers bs s
  unfold submit
  simp only
  split
  · rfl
  · split
    · rfl
    · split
      · rfl
      · split
        · rfl
        · split
          · exact read _
          · split <;> exact read _

theorem cancel_registers (m : Master) (tag : Byte) (s : State) : (cancel m tag s).state.registers = s.registers := by
  unfold cancel
  split
  · exact raiseAt_registers ..
  · split
    · split
      · exact endInProgress_registers ..
      · rfl
    · rfl

/-- What the effect of every command can do to the registers. -/
theorem effect_commanded {i : Instr} {e : State → Reply} (h : effectOf i = some e) (s : State) :
    s.registers.Commanded (e s).state.registers := by
  cases i <;> simp only [effectOf, Option.some.injEq, reduceCtorEq] at h <;> subst h
  case lineSet m r => exact lineSet_commanded m r s
  case portReset m => exact portReset_commanded m s
  case notice m => exact notice_commanded m s
  case release m n => exact release_commanded m n s
  case portSet m q t b =>
    unfold portSet
    split
    · exact .same
    · exact .portSet m (portSettingsOf_inRange ‹_›)
  case mask m enables =>
    unfold mask
    split
    · exact .same
    · exact .of_eq (by cases m <;> rfl)
  case wantLine =>
    unfold wantLine
    simp only
    split
    · exact .of_eq (lineEntry_registers _)
    · exact .same
  case unwantLine m => exact .of_eq (leaveWantSet_registers m s)
  case relearn =>
    unfold relearn
    split
    · exact .of_eq (goSeek_registers s)
    · exact .same
  case submit m c o => exact .of_eq (submit_registers m c o s)
  case cancel m t => exact .of_eq (cancel_registers m t s)
  case write =>
    unfold write
    split
    · exact .same
    · split
      · exact .same
      · split
        · exact .same
        · split
          · exact .same
          · exact .of_eq (writeWords_registers ..)
  case read =>
    unfold read
    split
    · exact .same
    · split
      · exact .same
      · split
        · exact .same
        · exact .of_eq (readWords_registers ..)
  case claim =>
    unfold claim
    (repeat' split) <;> exact .same
  case drop =>
    unfold drop
    (repeat' split) <;> exact .same
  case join =>
    unfold join
    (repeat' split) <;> exact .same
  case leave =>
    unfold leave
    simp only
    (repeat' split) <;> exact .same
  case tableRead =>
    unfold tableRead
    (repeat' split) <;> exact .same
  case alloc =>
    unfold alloc
    (repeat' split) <;> exact .same
  case free =>
    unfold free
    simp only
    (repeat' split) <;> exact .same
  case adopt =>
    unfold adopt
    (repeat' split) <;> exact .same
  case scrub =>
    have scrubbed (st : Store) : s.registers.Commanded ({ s with store := st } : State).registers := .same
    unfold scrub
    split
    · exact .same
    · split
      · split
        · exact scrubbed _
        · exact .same
      · exact scrubbed _
      · exact .same
  case takeCompletion =>
    unfold takeCompletion
    split <;> exact .same
  case takeDelivery =>
    unfold takeDelivery
    split <;> exact .same
  all_goals exact .same

/-! ### What is kept -/

/-- The three laws hold of the second registers if they hold of the first, each for itself. -/
structure Registers.Kept (r r' : Registers) : Prop where
  settings : r.LawfulSettings → r'.LawfulSettings
  notices : r.LawfulNotices → r'.LawfulNotices
  reset : r.LawfulReset → r'.LawfulReset

namespace Registers.Kept

theorem refl (r : Registers) : r.Kept r := ⟨id, id, id⟩

theorem of_eq {r r' : Registers} (h : r' = r) : r.Kept r' := h ▸ refl r

/-- CS# and the transaction of a port may move so long as a port that is DESELECTED with RESET# low stays so (R162). -/
theorem of_port (r : Registers) (m : Master) (f : Port → Port) (hs : ∀ p, (f p).settings = p.settings)
    (hd : r.resetLow = true → (r.ports.get m).transaction = .deselected → (f (r.ports.get m)).transaction = .deselected) :
    r.Kept { r with ports := r.ports.modify m f } where
  settings l := ⟨l.1, PerMaster.forall_modify (P := fun p : Port => p.settings.inRange) l.2 fun h => (hs _).symm ▸ h⟩
  notices := id
  reset l low := ⟨(l low).1, PerMaster.forall_modify (P := fun p : Port => p.transaction = .deselected) (l low).2 (hd low)⟩

/-- A port that is not DESELECTED may move in any way: RESET# is high (R162). -/
theorem of_selected {r : Registers} {m : Master} (x : Transaction) (h : (r.ports.get m).transaction ≠ .deselected) :
    r.Kept { r with ports := r.ports.modify m fun p => { p with transaction := x } } :=
  of_port r m _ (fun _ => rfl) fun _ hd => absurd hd h

/-- What a command has done to the registers, and the answer on its port, which is not DESELECTED (R162, R164). -/
theorem of_commanded {r r' : Registers} {m : Master} (x : Transaction) (h : (r.ports.get m).transaction ≠ .deselected)
    (hc : r.Commanded r') : r.Kept { r' with ports := r'.ports.modify m fun p => { p with transaction := x } } where
  settings l :=
    have l := hc.lawfulSettings l
    ⟨l.1, PerMaster.forall_modify (P := fun p : Port => p.settings.inRange) l.2 id⟩
  notices l := hc.lawfulNotices l
  reset l low := absurd ((l (hc.resetLow.symm.trans low)).2 m (Master.mem_all m)) h

end Registers.Kept

/-- The three laws are kept from one state to another. -/
abbrev KeepsRegisters (s t : State) : Prop := s.registers.Kept t.registers

theorem portMoved_keepsRegisters {m : Master} {f : Port → Port} {s : State} (hs : ∀ p, (f p).settings = p.settings)
    (hd : s.resetLow = true → (s.ports.get m).transaction = .deselected → (f (s.ports.get m)).transaction = .deselected) :
    KeepsRegisters s { s with ports := s.ports.modify m f } := .of_port _ m f hs hd

theorem setTransaction_keepsRegisters {m : Master} {s : State} (x : Transaction) (h : (s.ports.get m).transaction ≠ .deselected) :
    KeepsRegisters s (setTransaction m x s) := .of_selected x h

/-! ### Commands and bytes -/

/-- A port that takes a command or a byte is not DESELECTED, so that RESET# is high (R162). -/
theorem takeCommand_keepsRegisters {i : Instr} {e : State → Reply} (he : effectOf i = some e) {m : Master} {s : State}
    (hd : (s.ports.get m).transaction ≠ .deselected) : KeepsRegisters s (takeCommand m e s) := by
  unfold takeCommand
  split
  · exact setTransaction_keepsRegisters _ hd
  · have commanded := effect_commanded he (takeAttempt s)
    rw [takeAttempt_registers] at commanded
    exact .of_commanded _ hd commanded

theorem awaits_of_deselected {p : Port} (h : p.transaction = .deselected) (code : Byte) (args : List Byte) :
    awaits p code args = false := by
  unfold awaits
  rw [h]
  rfl

theorem commandStep_keepsRegisters {i : Instr} {e : State → Reply} (he : effectOf i = some e) (m : Master) (code : Byte)
    (args : List Byte) (s : State) : KeepsRegisters s (commandStep m code args e s) := by
  unfold commandStep
  split
  · rename_i ha
    exact takeCommand_keepsRegisters he fun hd => by simp [awaits_of_deselected hd] at ha
  · exact .refl _

theorem byteArrives_keepsRegisters (m : Master) (byte : Byte) (s : State) : KeepsRegisters s (byteArrives m byte s) := by
  have counted (code : Byte) (args : List Byte) (hd : (s.ports.get m).transaction ≠ .deselected) :
      KeepsRegisters s (takeOrCount m code args s) := by
    unfold takeOrCount
    split
    · rename_i e he
      obtain ⟨i, -, hi⟩ := Option.bind_eq_some_iff.mp he
      exact takeCommand_keepsRegisters hi hd
    · exact setTransaction_keepsRegisters _ hd
  unfold byteArrives
  split
  · rename_i hc
    split
    · exact counted _ _ (by simp [hc])
    · exact setTransaction_keepsRegisters _ (by simp [hc])
  · rename_i ha
    exact counted _ _ (by simp [ha])
  · exact .refl _

/-! ### Events and steps -/

theorem powerOn_keepsRegisters (held : Bool) {s t : State} (h : exec (.powerOn held) s = .next t) : KeepsRegisters s t := by
  rw [exec_powerOn] at h
  cases h
  refine ⟨fun _ => ⟨settingsLaw_reset.1, fun m _ => ?_⟩, fun _ => (noticeLaw_iff _).mp noticeLaw_reset,
    fun _ _ => ⟨rfl, fun m _ => ?_⟩⟩
  · cases m <;> exact portSettings_reset_inRange
  · cases m <;> rfl

theorem startUpClearEnd_keepsRegisters {s t : State} (h : exec .startUpClearEnd s = .next t) : KeepsRegisters s t := by
  cases h
  split
  · refine ⟨fun _ => ⟨settingsLaw_reset.1, fun m _ => ?_⟩, fun _ => (noticeLaw_iff _).mp noticeLaw_reset, fun _ low => nomatch low⟩
    cases m <;> exact portSettings_reset_inRange
  · exact .refl _

/-- Every event keeps the three laws. -/
theorem event_keepsRegisters {i : Instr} {s t : State} (hi : effectOf i = none) (h : exec i s = .next t) : KeepsRegisters s t := by
  have attempt {u : State} (hu : u.registers = (takeAttempt s).registers) : KeepsRegisters s u :=
    .of_eq (hu.trans (takeAttempt_registers s))
  cases i <;> simp only [effectOf, reduceCtorEq] at hi
  case powerOn held => exact powerOn_keepsRegisters held h
  case startUpClearEnd => exact startUpClearEnd_keepsRegisters h
  case storeUpset =>
    simp only [exec, execStoreUpset] at h
    split at h <;> cases h
    unfold upsetWord
    simp only
    (repeat' split) <;> exact .refl _
  case patrolVisit =>
    cases h
    unfold patrol
    simp only
    split
    · exact .refl _
    · split
      · exact .refl _
      · exact .of_eq (readWord_registers s.store.patrolIndex s)
  case csFalls m =>
    cases h
    split
    · exact .refl _
    · exact portMoved_keepsRegisters (fun _ => rfl) fun low _ => if_pos low
  case csRises m => cases h; exact portMoved_keepsRegisters (fun _ => rfl) fun _ _ => rfl
  case unknownCommand m code =>
    cases h
    split
    · rename_i hc
      exact setTransaction_keepsRegisters _ (by simp [hc.1])
    · exact .refl _
  case addressCharacter data stop runs low =>
    cases h
    exact attempt (receiveCharacter_registers (takeAddress_registers data stop) ..)
  case bodyCharacter data stop runs low =>
    cases h
    exact attempt (receiveCharacter_registers (takeBody_registers data stop) ..)
  case frameEnd => exact .of_eq (frameEnd_registers h)
  case attemptBeginsSending => cases h; exact attempt (sendAttempt_registers _)
  case automaticBusyStart => cases h; exact attempt (sendBusy_registers _)
  case characterSent => cases h; exact attempt (characterSent_registers ..)
  case deRelease => cases h; exact attempt (turnaroundEnds_registers _)
  case grant => exact .of_eq (grant_registers h)
  case responseTimerExpiry => cases h; exact attempt (responseExpires_registers _)
  case waitTimerExpiry => cases h; exact attempt (waitExpires_registers _)
  case tenureTimerExpiry => cases h; exact attempt (tenureExpires_registers _)
  case silenceTimeout => cases h; exact attempt (silenceExpires_registers _)
  case qualificationWindowExpiry => cases h; exact attempt (windowExpires_registers _)
  case holdEntryExpiry => cases h; exact attempt (holdExpires_registers _)
  case syncEdge =>
    cases h
    split <;> exact .refl _
  case timeBaseIncrement =>
    cases h
    refine attempt ?_
    unfold countMicrosecond
    split <;> rfl
  case byteArrives m b => cases h; exact byteArrives_keepsRegisters m b s
  case answerByteClockedOut m =>
    cases h
    refine portMoved_keepsRegisters (fun _ => rfl) fun _ hd => ?_
    simp only [hd, Transaction.clocked]

/-- Every step keeps the three laws. -/
theorem step_keepsRegisters {s t : State} (h : step s = .next t) : KeepsRegisters s t := by
  unfold step at h
  split at h
  · cases h
    exact .of_eq (takeAttempt_registers s)
  · rename_i i q _
    show KeepsRegisters { s with pending := q } t
    cases he : effectOf i with
    | none => exact event_keepsRegisters he h
    | some e =>
      obtain ⟨m, code, args, hc⟩ := commandBytes_of_effectOf he
      rw [exec_command hc he] at h
      cases h
      exact commandStep_keepsRegisters he m code args _

/-- Settles O57: what a command or an event can do to the settings, the active sources and the ports keeps their laws. -/
theorem stepKeepsSettingsAndNotices : Obligations.StepKeepsSettingsAndNotices := by
  unfold Obligations.StepKeepsSettingsAndNotices
  refine ⟨fun s t l h => ?settings, fun s t l h => ?notices, fun s t l h => ?reset⟩
  case settings => exact (settingsLaw_iff t).mpr ((step_keepsRegisters h).settings ((settingsLaw_iff s).mp l))
  case notices => exact (noticeLaw_iff t).mpr ((step_keepsRegisters h).notices ((noticeLaw_iff s).mp l))
  case reset => exact (resetLaw_iff t).mpr ((step_keepsRegisters h).reset ((resetLaw_iff s).mp l))

end Machine

end Sys2Proof
end

section
/-!
PROOFS. LINE STATE, WANT LINE and the line's two timers (R64, R65, R73, R78 to R80, R82, R85, R86).
-/

namespace Sys2Proof.Machine

/-! ### LINE STATE -/

theorem LineState.byte_eq (l : LineState) : l.byte = match l with
    | .down => 0 | .seek _ => 1 | .qualify _ _ _ => 2 | .up _ _ => 3 := by
  cases l <;> rfl

theorem Line.appliedCode_eq (l : Line) : l.appliedCode = match l.state with
    | .down => if l.settings.rateMode = .fixed then l.settings.fixedCode else l.learned
    | .seek _ => l.learned
    | .qualify candidate _ _ => candidate
    | .up _ _ => if l.settings.rateMode = .fixed then l.settings.fixedCode else l.learned := by
  unfold Line.appliedCode
  cases l.state <;> rfl

theorem LineFlags.byte_eq (f : LineFlags) : f.byte =
    (if f.upKept then 1 else 0) + (if f.rateFault then 2 else 0) + (if f.silent then 4 else 0) + (if f.overflow then 8 else 0) :=
  masterSetByte_eq ⟨f.upKept, f.rateFault, f.silent, f.overflow⟩

/-- Settles O9: the record byte by byte. -/
theorem lineStateReadsAndClears : Obligations.LineStateReadsAndClears := by
  unfold Obligations.LineStateReadsAndClears
  intro m s hs line fixedOr applied want f bits
  have state : s.line.state.byte = line := LineState.byte_eq _
  have code : s.line.appliedCode = applied := Line.appliedCode_eq _
  rw [exec_of_ready rfl rfl hs]
  simp only [lineState, lineStateRecord, state, code, masterSetByte_eq, halfBytes_responseTimerValue, LineFlags.byte_eq]
  rfl

/-! ### WANT LINE -/

/-- Settles O10: the first master to want a line that is DOWN brings it into use. -/
theorem wantLineMakesTheEntry : Obligations.WantLineMakesTheEntry := by
  unfold Obligations.WantLineMakesTheEntry
  intro m s hs joined
  have answer : exec (.wantLine m) s = .next (answered m .ok [(wantLine m s).state.line.state.byte] (wantLine m s).state) :=
    exec_of_ready (effect := wantLine m) rfl rfl hs
  have enters (he : s.line.want.isEmpty = true) (hd : s.line.state = .down) : (wantLine m s).state = lineEntry joined := by
    simp only [wantLine, he, hd]
    rfl
  refine ⟨fun he hd hm => ?_, fun he hd hm => ?_, fun h => ?_⟩
  · rw [answer, enters he hd, lineEntry_of_fixed (s := joined) hm, Line.entered]
    simp only [joined, hm, if_true]
    rfl
  · rw [answer, enters he hd, lineEntry_of_learn (s := joined) hm, Line.entered]
    simp only [joined, hm, reduceCtorEq, if_false]
    rfl
  · have joins : (wantLine m s).state = joined := by
      have stays : (s.line.want.isEmpty && s.line.state.isDown) = false := Bool.and_eq_false_iff.mpr h
      simp only [wantLine, stays]
      rfl
    rw [answer, joins]

/-! ### The silence timeout and the qualification window -/

/-- Settles O17: what the end of either timer does once its time has passed. -/
theorem lineTimersExpire : Obligations.LineTimersExpire := by
  unfold Obligations.LineTimersExpire
  intro s hs
  refine ⟨fun silence bad hl => ?silence, fun candidate count window hl => ?window⟩
  case silence =>
    intro passed latched
    obtain ⟨n, state⟩ : ∃ n, latched.line.state = .up n bad := ⟨_, congrArg (LineState.after _ _) hl⟩
    have expires : exec .silenceTimeout s = .next (timeOut passed) := by
      show Host.Outcome.next (silenceExpires (takeAttempt s)) = _
      rw [takeAttempt_of_settled hs]
      simp only [silenceExpires, hl]
      rfl
    have mode : passed.line.settings.rateMode = s.line.settings.rateMode := rfl
    refine ⟨fun hm => ?_, fun hm => ?_⟩
    · have expired : timeOut passed = raiseAll .line (reportCharacter latched) := by rw [timeOut, mode, hm]
      rw [expires, expired, reportCharacter_eq, state]
      rfl
    · have up : latched.line.state.isUp = true := by rw [state]; rfl
      obtain ⟨left, line⟩ := goSeek_of_up up
      refine ⟨_, ?_, left, line⟩
      rw [expires, timeOut, mode, hm]
  case window =>
    intro passed
    have in_use : passed.line.state ≠ .down := lineTime_in_use (by simp [hl]) _
    have not_up : passed.line.state.isUp = false := (lineTime_isUp ..).trans (by rw [hl]; rfl)
    show Host.Outcome.next (windowExpires (takeAttempt s)) = _
    rw [takeAttempt_of_settled hs]
    simp only [windowExpires, hl]
    exact congrArg _ (goSeek_of_not_up in_use not_up)

end Sys2Proof.Machine
end

section
/-!
PROOFS. The frame end of a good, matched REPLY, BUSY, HOLD or RESUME (R91, R93, R95 to R97, R142, R144, R147).
-/

namespace Sys2Proof.Machine

/-! ### REPLY and BUSY -/

theorem Header.answers_iff {h : Header} {k : SendKey} : h.answers k = true ↔
    h.destination = k.source ∧ h.source = k.destination ∧ h.sequence = k.sequence := by
  simp only [Header.answers, Bool.and_eq_true, decide_eq_true_eq, and_assoc]

/-- A REPLY and a BUSY take one way, each with its own outcome (R91, R122). -/
theorem deliver_reply_or_busy {h : Header} (hk : h.kind = 0x30 ∨ h.kind = 0x31) (b : Option BufferId) (s : State) :
    deliver h b s = deliverReply (if h.kind = 0x30 then .replied else .busy) h b s := by
  rcases hk with hk | hk
  · rw [deliver, (ofByte_eq_reply _).mpr hk, if_pos hk]
  · have no_reply : ¬h.kind = 0x30 := by
      rw [hk]
      decide
    rw [deliver, (ofByte_eq_busy _).mpr hk, if_neg no_reply]

theorem captures_of_answer {h : Header} {s : State} {r : Running} {key : SendKey} {left : Nat} (hr : s.jobs.running = some r)
    (hd : r.doing = .await key left) (ha : h.answers key = true) : captures h s = some r := by
  simp only [captures, hr, hd, ha, if_true]

theorem captures_eq_none {h : Header} {s : State}
    (ha : ∀ r key left, s.jobs.running = some r → r.doing = .await key left → h.answers key = false) : captures h s = none := by
  unfold captures
  split
  · rename_i r hr
    split
    · rename_i key left hd
      rw [ha r key left hr hd]
      rfl
    · rfl
  · rfl

theorem Doing.after_eq_await {d : Doing} {n left : Nat} {key : SendKey} (h : d.after n = .await key left) :
    ∃ before, d = .await key before := by
  cases d with
  | await k before =>
    obtain ⟨rfl, -⟩ := Doing.await.inj h
    exact ⟨before, rfl⟩
  | _ => cases h

/-- The RUNNING job when a good frame has ended: its timers have run on (R48, R123, R127). -/
theorem goodFrameEnded_running {s : State} {r : Running} (hr : s.jobs.running = some r) :
    (goodFrameEnded s).jobs.running = some { r with
      tenure := r.tenure - (s.line.low + (22 - s.line.idle)), doing := r.doing.after (s.line.low + (22 - s.line.idle)) } := by
  simp only [goodFrameEnded, lineTime_jobs, hr, Option.map_some]

/-- A reply captured in the state in which its frame has ended (R93, R122). -/
theorem capture_goodFrameEnded {s : State} {r : Running} (tenure : Nat) (doing : Doing) (outcome : AwaitOutcome)
    (b : Option BufferId) :
    let taken := match b with
      | some b => { goodFrameEnded s with store := s.store.setState b (.inJob r.job.master r.job.tag) }
      | none => lostWithoutBuffer (fun n => decide (n = r.job.master)) (goodFrameEnded s)
    capture { r with tenure := tenure, doing := doing } outcome b (goodFrameEnded s) = orderDue 33 { taken with
      store := (match r.job.reply with
        | some old => taken.store.leaveUse old
        | none => taken.store),
      jobs := { s.jobs with
        running := some ⟨{ r.job with reply := b, lastAwait := outcome, index := r.job.index + 1 }, tenure, .send⟩ } } := by
  cases b with
  | none =>
    simp only [capture, noBufferAt_eq, singleton_get]
    cases r.job.reply <;> rfl
  | some b =>
    simp only [capture]
    cases r.job.reply <;> rfl

/-- Settles O43: the running job's AWAIT, then the owner's late-reply record, then the frame-end targets. -/
theorem replyIsCaptured : Obligations.ReplyIsCaptured := by
  unfold Obligations.ReplyIsCaptured
  intro s f hs hf he hm hu hk h wait ended outcome answers
  have delivered : exec .frameEnd s = .next (deliverReply outcome h f.buffer ended) := by
    rw [exec_frameEnd_delivers hs hf he hm hu, deliver_reply_or_busy hk]
  refine ⟨fun r key left hr hd ha => ?captured, fun hn => ?passed⟩
  case captured =>
    have captured : captures h ended = some { r with tenure := r.tenure - wait, doing := .await key (left - wait) } :=
      captures_of_answer (by rw [goodFrameEnded_running hr, hd]; rfl) rfl (Header.answers_iff.mpr ha)
    rw [delivered, deliverReply, captured]
    exact congrArg _ (capture_goodFrameEnded ..)
  case passed =>
    have passed : captures h ended = none := captures_eq_none fun r key left hr hd => by
      obtain ⟨before, hb, rfl⟩ := Option.map_eq_some_iff.mp hr
      obtain ⟨was, hw⟩ := Doing.after_eq_await hd
      exact Bool.eq_false_iff.mpr (mt Header.answers_iff.mp (hn before key was hb hw))
    refine ⟨fun m key ho hl ha => ⟨_, delivered, ?_⟩, fun hn => ⟨_, delivered, ?_⟩⟩
    · have owner : ownerOf ended.table h.destination = some m := ho
      have record : ended.delivery.late.get m = some key := hl
      simp only [deliverReply, passed, owner, record, Header.answers_iff.mpr ha, if_true, ← singleton_get]
      exact deliverTo_delivered ..
    · have ordinary : deliverReply outcome h f.buffer ended = deliverTo (targetSet s h.destination) h f.buffer false ended := by
        simp only [deliverReply, passed]
        split
        · rfl
        · rename_i m ho
          split
          · rfl
          · rename_i key hl
            exact if_neg (mt Header.answers_iff.mp (hn m key ho hl))
      rw [ordinary]
      exact deliverTo_delivered ..

/-! ### HOLD and RESUME -/

theorem leaveUse_of_receiver {s t : State} {f : Frame} (hf : s.receiver = some f) (ht : t.store = s.store) :
    leaveUse f.buffer t = { t with store := abandonedStore s } := by
  simp only [abandonedStore, hf, Option.bind_some, ← ht]
  cases f.buffer <;> rfl

/-- The station of a HOLD is held (R142, R143). -/
theorem isHeld_takeHold (station : Byte) (time : Nat) (holds : List HoldEntry) : isHeld (takeHold station time holds) station = true := by
  have added (rest : List HoldEntry) : isHeld (rest ++ [⟨station, time⟩]) station = true :=
    (isHeld_iff ..).mpr ⟨_, List.mem_append_right rest (List.mem_singleton_self _), rfl⟩
  unfold takeHold
  split
  · rename_i held
    obtain ⟨e, he, hs⟩ := (isHeld_iff ..).mp held
    refine (isHeld_iff ..).mpr ⟨_, List.mem_map_of_mem he, ?_⟩
    simp only [hs, if_true]
  · split
    · exact added _
    · split
      · exact added _
      · exact added []

/-- Settles O44: the hold list takes the frame, and an attempt that a grant has made due meets the hold. -/
theorem holdAndResumeAreTaken : Obligations.HoldAndResumeAreTaken := by
  unfold Obligations.HoldAndResumeAreTaken
  intro s f hs hf he hm hu h ended
  have delivered : exec .frameEnd s = .next (deliver h f.buffer ended) := exec_frameEnd_delivers hs hf he hm hu
  have given_back : leaveUse f.buffer ended = { ended with store := abandonedStore s } := leaveUse_of_receiver hf rfl
  let holding : State := { ended with
    store := abandonedStore s, holds := takeHold h.source (2 ^ s.line.settings.holdExponent * 11) ended.holds }
  have holds (hk : h.kind = 0x40) : exec .frameEnd s = .next holding := by
    rw [delivered]
    simp only [deliver, (ofByte_eq_hold _).mpr hk, given_back]
    rfl
  refine ⟨holds, fun hk => ?_, fun r b header hr hd hk hdest hown hfree => ⟨holding, holds hk, ?_⟩⟩
  · rw [delivered]
    simp only [deliver, (ofByte_eq_resume _).mpr hk, given_back]
    rfl
  · have met : s.line.low + (22 - s.line.idle) = 0 := hs.resolve_left fun settled => settled r hr b header hd
    have running : holding.jobs.running = some r := by
      show ended.jobs.running = _
      rw [goodFrameEnded_running hr, met, hd]
      simp only [Doing.after, Nat.sub_zero, ← hd]
    refine ⟨running, ?_⟩
    rw [takeAttempt_of_due running hd]
    have foreign : ¬(ownerOf s.table header.destination = some r.job.master ∨
        (ownerOf s.table header.destination ≠ none ∧ header.kind ≠ 0x10)) := by
      rw [hdest, hfree]
      simp
    refine beginAttempt_of_held (s := setRunning _ holding) b hown (destinationCheck_of_sent foreign) ?_
    rw [hdest]
    exact isHeld_takeHold ..

end Sys2Proof.Machine
end

section
/-!
PROOFS. TAKE COMPLETION and TAKE DELIVERY (R105, R130, R172, R173), and the expiry of the RUNNING job's timers (R90, R122, R123, R125, R127,
R134).
-/

namespace Sys2Proof.Machine

/-! ### TAKE COMPLETION and TAKE DELIVERY -/

/-- A buffer number is below 96, so the high one of its two bytes is 0 (R173). -/
theorem bufferBytes_some (b : BufferId) : bufferBytes (some b) = [0, BitVec.ofNat 8 b.val] := by
  have high : b.val / 256 = 0 := by omega
  rw [bufferBytes, halfBytes_ofNat, high]
  rfl

/-- The flags of a delivery entry, one bit each (R172). -/
theorem flagsByte_eq (group late isLocal : Bool) : BitVec.ofNat 8 (group.toNat + 2 * late.toNat + 4 * isLocal.toNat) =
    (if group then 1 else 0) + (if late then 2 else 0) + (if isLocal then 4 else 0) := by
  revert group late isLocal
  decide

theorem takeCompletion_of_nil {m : Master} {s : State} (h : s.jobs.completions.get m = []) :
    takeCompletion m s = refuse .empty s := by
  simp only [takeCompletion, h]

theorem takeCompletion_of_cons {m : Master} {s : State} {c : Completion} {rest : List Completion}
    (h : s.jobs.completions.get m = c :: rest) :
    takeCompletion m s = ⟨.ok, natByte rest.length :: c.bytes,
      { s with jobs := { s.jobs with completions := s.jobs.completions.set m rest } }⟩ := by
  simp only [takeCompletion, h]

theorem takeDelivery_of_nil {m : Master} {s : State} (h : s.delivery.inbound.get m = []) :
    takeDelivery m s = refuse .empty s := by
  simp only [takeDelivery, h]

theorem takeDelivery_of_cons {m : Master} {s : State} {e : DeliveryEntry} {rest : List DeliveryEntry}
    (h : s.delivery.inbound.get m = e :: rest) :
    takeDelivery m s = ⟨.ok, natByte rest.length :: e.bytes,
      { s with
        delivery := { s.delivery with inbound := s.delivery.inbound.set m rest },
        store := s.store.takeFrom e.buffer m }⟩ := by
  simp only [takeDelivery, h]

/-- Settles O35: by the queue, and for its head by each field of the entry. -/
theorem takeFromQueues : Obligations.TakeFromQueues := by
  unfold Obligations.TakeFromQueues
  intro m s time
  refine ⟨fun h => ⟨fun hq => ?_, fun c rest hq => ?completion⟩,
    fun h => ⟨fun hq => ?_, fun e rest pending holders hq hb => ?delivery⟩⟩
  · rw [exec_of_ready rfl rfl h, takeCompletion_of_nil hq]
    rfl
  case completion =>
    intro outcome awaited failing reply
    have ended : c.outcome.byte = outcome := by cases hc : c.outcome <;> simp only [outcome, hc, JobOutcome.byte]
    have waited : c.lastAwait.byte = awaited := by cases hc : c.lastAwait <;> simp only [awaited, hc, AwaitOutcome.byte]
    have replied : bufferBytes c.reply = reply := by
      cases hc : c.reply with
      | none => simp only [reply, hc, bufferBytes]
      | some b => simp only [reply, hc, bufferBytes_some]
    rw [exec_of_ready rfl rfl h, takeCompletion_of_cons hq]
    simp only [Completion.bytes, ended, waited, replied]
    rfl
  · rw [exec_of_ready rfl rfl h, takeDelivery_of_nil hq]
    rfl
  case delivery =>
    intro flags
    rw [exec_of_ready rfl rfl h, takeDelivery_of_cons hq]
    simp only [DeliveryEntry.bytes, bufferBytes_some, flagsByte_eq, Store.takeFrom_of_delivered m hb]
    rfl

/-! ### The timers of the RUNNING job -/

section

variable {s : State} {r : Running} (hr : s.jobs.running = some r)

include hr

theorem lineTime_running {d : Doing} (hd : r.doing = d) (n : Nat) :
    (lineTime n s).jobs.running = some ⟨r.job, r.tenure - n, d.after n⟩ := by
  rw [lineTime_jobs, hr, ← hd, Option.map_some]

theorem exec_tenureTimerExpiry (hs : Settled s) :
    exec .tenureTimerExpiry s = .next (endInProgress .tenureLimit (lineTime r.tenure s)) := by
  show Host.Outcome.next (tenureExpires (takeAttempt s)) = _
  rw [takeAttempt_of_settled hs]
  simp only [tenureExpires, hr]

section

variable {key : SendKey} {left : Nat} (hd : r.doing = .await key left)

include hd

theorem exec_responseTimerExpiry : exec .responseTimerExpiry s = .next (nextOrder (silenceAwait (lineTime left s))) := by
  show Host.Outcome.next (responseExpires (takeAttempt s)) = _
  rw [takeAttempt_of_settled (settled_of_doing hr (by simp [hd]))]
  simp only [responseExpires, hr, Option.map_some, hd]

/-- An AWAIT in progress ends SILENT and leaves its capture key in the late-reply record (R90, R122). -/
theorem silenceAwait_of_await :
    silenceAwait s = { setRunning (some { r with job := { r.job with lastAwait := .silent }, doing := .send }) s with
      delivery := { s.delivery with late := s.delivery.late.set r.job.master (some key) } } := by
  simp only [silenceAwait, hr, hd]

theorem endInProgress_of_await (p : PendingEnd) :
    endInProgress p s = endJob p.outcome (some r.job.index) (silenceAwait s) := by
  simp only [endInProgress, hr, hd]

end

section

variable {left : Nat} (hd : r.doing = .wait left)

include hd

theorem exec_waitTimerExpiry : exec .waitTimerExpiry s = .next (nextOrder (lineTime left s)) := by
  show Host.Outcome.next (waitExpires (takeAttempt s)) = _
  rw [takeAttempt_of_settled (settled_of_doing hr (by simp [hd]))]
  simp only [waitExpires, hr, Option.map_some, hd]

theorem endInProgress_of_wait (p : PendingEnd) : endInProgress p s = endJob p.outcome (some r.job.index) s := by
  simp only [endInProgress, hr, hd]

end

variable (hd : r.doing = .send)

include hd

/-- A SEND whose attempt has not begun to send is withdrawn (R127, R133). -/
theorem endInProgress_of_waiting (hw : s.transmitter.waiting ≠ none) (p : PendingEnd) :
    endInProgress p s = endJob p.outcome (some r.job.index) (dropWaiting s) := by
  simp only [endInProgress, hr, hd, Option.isSome_iff_ne_none.mpr hw, if_true]

/-- A SEND whose frame is on the wire goes on, with its end pending; an end recorded before stays (R127, R134). -/
theorem endInProgress_of_sending (hw : s.transmitter.waiting = none) (p : PendingEnd) :
    endInProgress p s =
      setRunning (some { r with job := { r.job with pendingEnd := r.job.pendingEnd.orElse fun _ => some p } }) s := by
  simp only [endInProgress, hr, hd, hw, Option.isSome_none, Bool.false_eq_true, if_false]

end

/-- Settles O37: by what the RUNNING job is doing when its timer has run out. -/
theorem jobTimersExpire : Obligations.JobTimersExpire := by
  unfold Obligations.JobTimersExpire
  intro s r hr later lateNow
  have passed {d : Doing} (hd : r.doing = d) (n : Nat) : lineTime n s = later n r.job (d.after n) := by
    simp only [later, ← lineTime_running hr hd]
    rfl
  have tenure_ends (hd : ∀ b h, r.doing ≠ .due b h) :
      exec .tenureTimerExpiry s = .next (endInProgress .tenureLimit (lineTime r.tenure s)) :=
    exec_tenureTimerExpiry hr (settled_of_doing hr hd)
  refine ⟨fun key left hd => ?await, fun left hd => ?wait, ?send⟩
  case await =>
    have awaits (n : Nat) : (lineTime n s).jobs.running = some ⟨r.job, r.tenure - n, .await key (left - n)⟩ :=
      lineTime_running hr hd n
    have silenced (n : Nat) : silenceAwait (lineTime n s) = { later n { r.job with lastAwait := .silent } .send with
        delivery := { s.delivery with late := lateNow (some key) } } := silenceAwait_of_await (awaits n) rfl
    refine ⟨?_, ?_⟩
    · rw [exec_responseTimerExpiry hr hd, silenced, nextOrder_of_running rfl]
      rfl
    · rw [tenure_ends (by simp [hd]), endInProgress_of_await (awaits _) rfl, silenced]
      rfl
  case wait =>
    have waits (n : Nat) : (lineTime n s).jobs.running = some ⟨r.job, r.tenure - n, .wait (left - n)⟩ :=
      lineTime_running hr hd n
    refine ⟨?_, ?_⟩
    · rw [exec_waitTimerExpiry hr hd, nextOrder_of_running (waits left), Nat.sub_self]
      rfl
    · rw [tenure_ends (by simp [hd]), endInProgress_of_wait (waits _) rfl, passed hd]
      rfl
  case send =>
    have records (hd : r.doing = .send) (hw : s.transmitter.waiting = none) : exec .tenureTimerExpiry s =
        .next (later r.tenure { r.job with pendingEnd := r.job.pendingEnd.orElse fun _ => some .tenureLimit } .send) := by
      rw [tenure_ends (by simp [hd]), endInProgress_of_sending (lineTime_running hr hd _) rfl hw]
      rfl
    refine ⟨fun hd hw => ?_, fun hd hw hp => ?_, fun hd hw hp => ?_⟩
    · rw [tenure_ends (by simp [hd]), endInProgress_of_waiting (lineTime_running hr hd _) rfl hw, passed hd]
      rfl
    · obtain ⟨p, hp⟩ := Option.ne_none_iff_exists'.mp hp
      have kept : { r.job with pendingEnd := some p } = r.job := by rw [← hp]
      rw [records hd hw, hp, Option.orElse_some, kept]
    · rw [records hd hw, hp, Option.orElse_none]

end Sys2Proof.Machine
end

section
/-!
PROOFS. SUBMIT: what its order bytes give (R114, R171), its refusals in their order (R114, R115), and the job that it queues (R112, R116).
-/

namespace Sys2Proof.Machine

/-! ### The bytes of an order -/

theorem halfOf_toNat (high low : Byte) : (halfOf high low).toNat = 256 * high.toNat + low.toNat := by
  have hh := high.isLt
  have hl := low.isLt
  rw [halfOf, BitVec.toNat_ofNat]
  omega

theorem conditionOf_eq (b : Byte) : conditionOf b =
    if b = 1 then some .replied else if b = 2 then some .busy else if b = 3 then some .silent
    else if b = 4 then some .notReplied else none := by
  revert b
  decide +kernel

/-- An order with nonzero flags, or with a code that names no order (R114, R171). -/
theorem parseOrder_of_not_coded {o : OrderBytes} (h : o.flags ≠ 0 ∨ o.code ∉ ([0x01, 0x02, 0x03, 0x04, 0x05] : List Byte)) :
    parseOrder o = .badArg := by
  obtain ⟨code, arg1, arg2, flags⟩ := o
  by_cases hf : flags = 0
  · have hc := h.resolve_left (not_not_intro hf)
    simp only [List.mem_cons, List.not_mem_nil, or_false, not_or, ← BitVec.toNat_inj] at hc
    obtain ⟨not_send, not_await, not_branch, not_wait, not_finish⟩ := hc
    simp only [parseOrder, hf, ne_eq, not_true_eq_false, if_false]
    split
    · exact absurd ‹_› not_send
    · exact absurd ‹_› not_await
    · exact absurd ‹_› not_branch
    · exact absurd ‹_› not_wait
    · exact absurd ‹_› not_finish
    · rfl
  · simp only [parseOrder, ne_eq, hf, not_false_eq_true, if_true]

section

variable {o : OrderBytes} (hf : o.flags = 0)

include hf

theorem parseOrder_send (hc : o.code = 0x01) {b : BufferId} (hb : b.val = 256 * o.arg1.toNat + o.arg2.toNat) :
    parseOrder o = .ok (.send b) := by
  have value : (halfOf o.arg1 o.arg2).toNat = b.val := (halfOf_toNat ..).trans hb.symm
  simp [parseOrder, hf, hc, value]

theorem parseOrder_send_far (hc : o.code = 0x01) (hb : 96 ≤ 256 * o.arg1.toNat + o.arg2.toNat) : parseOrder o = .badBuffer := by
  simp [parseOrder, hf, hc, halfOf_toNat, Nat.not_lt.mpr hb]

theorem parseOrder_await (hc : o.code = 0x02) : parseOrder o =
    let value := 256 * o.arg1.toNat + o.arg2.toNat
    if 8 ≤ value ∧ value ≤ 4095 then .ok (.await value) else .badArg := by
  simp [parseOrder, hf, hc, halfOf_toNat]

theorem parseOrder_branch (hc : o.code = 0x03) : parseOrder o =
    let taken (c : Condition) : ParsedOrder := if o.arg2.toNat ≤ 7 then .ok (.branch c o.arg2.toNat) else .badArg
    if o.arg1 = 1 then taken .replied else if o.arg1 = 2 then taken .busy else if o.arg1 = 3 then taken .silent
    else if o.arg1 = 4 then taken .notReplied else .badArg := by
  simp only [parseOrder, hf, hc, conditionOf_eq, ne_eq, not_true_eq_false, if_false]
  split_ifs <;> rfl

theorem parseOrder_wait (hc : o.code = 0x04) : parseOrder o =
    let value := 256 * o.arg1.toNat + o.arg2.toNat
    if 1 ≤ value ∧ value ≤ 4095 then .ok (.wait value) else .badArg := by
  simp [parseOrder, hf, hc, halfOf_toNat]

theorem parseOrder_finish (hc : o.code = 0x05) : parseOrder o =
    if 256 * o.arg1.toNat + o.arg2.toNat = 0 then .ok .finish else .badArg := by
  simp [parseOrder, hf, hc, halfOf_toNat]

end

/-! ### The buffers that the SEND orders name -/

theorem ParsedOrder.order?_eq_some {p : ParsedOrder} {o : Order} : p.order? = some o ↔ p = .ok o := by
  cases p <;> simp [ParsedOrder.order?]

theorem Order.buffer?_eq_some {o : Order} {b : BufferId} : o.buffer? = some b ↔ o = .send b := by
  cases o <;> simp [Order.buffer?]

theorem mem_sendBuffers {list : List Order} {b : BufferId} : b ∈ sendBuffers list ↔ ∃ o ∈ list, o.buffer? = some b := by
  simp [sendBuffers]

theorem nodup_sendBuffers (list : List Order) : (sendBuffers list).Nodup := (List.nodup_finRange 96).filter _

/-- The orders that the bytes of a SUBMIT give. -/
def ordersOf (orders : List OrderBytes) : List Order := (orders.map parseOrder).filterMap ParsedOrder.order?

theorem mem_ordersOf {orders : List OrderBytes} {o : Order} : o ∈ ordersOf orders ↔ ∃ x ∈ orders, parseOrder x = .ok o := by
  simp [ordersOf, ParsedOrder.order?_eq_some]

theorem ordersOf_of_parsed {orders : List OrderBytes} {list : List Order} (h : orders.map parseOrder = list.map .ok) :
    ordersOf orders = list := by
  rw [ordersOf, h, List.filterMap_map]
  exact List.filterMap_some

theorem mem_sendBuffers_ordersOf {orders : List OrderBytes} {b : BufferId} :
    b ∈ sendBuffers (ordersOf orders) ↔ ∃ o ∈ orders, parseOrder o = .ok (.send b) := by
  simp only [mem_sendBuffers, Order.buffer?_eq_some, exists_eq_right, mem_ordersOf]

theorem sendBuffers_ordersOf (orders : List OrderBytes) : sendBuffers (ordersOf orders) =
    (List.finRange 96).filter fun b => orders.any fun o => parseOrder o = .ok (.send b) := by
  refine List.filter_congr fun b _ => Bool.eq_iff_iff.mpr ?_
  simp only [List.any_eq_true, decide_eq_true_eq, Order.buffer?_eq_some, exists_eq_right, mem_ordersOf]

/-! ### The header read -/

/-- The header read reads word 0 of each buffer through correction (R115). -/
theorem readHeaders_snd (bs : List BufferId) (s : State) :
    (readHeaders bs s).2 = (readWords (bs.map fun b => wordOf b 0) s).2 := by
  induction bs generalizing s with
  | nil => rfl
  | cons b rest ih => exact ih _

theorem wordOf_ne {b c : BufferId} (h : c ≠ b) (k : Nat) : wordOf c k ≠ wordOf b k := fun e =>
  h (by rw [← bufferOf_wordOf c k, e, bufferOf_wordOf])

section

variable {bs : List BufferId} {s : State} (hn : bs.Nodup) (hf : ∀ b ∈ bs, (s.store.buffer b).state ≠ .free)

include hn hf

/-- Each header is that of the bytes which the buffer's word 0 gives at the start (R3, R115). -/
theorem readHeaders_fst : (readHeaders bs s).1 = bs.map fun b => (b, headerOf (s.store.given (wordOf b 0))) := by
  induction bs generalizing s with
  | nil => rfl
  | cons b rest ih =>
    obtain ⟨hnot, hn⟩ := List.nodup_cons.mp hn
    have hw : (s.store.buffer (bufferOf (wordOf b 0))).state ≠ .free := by
      rw [bufferOf_wordOf]
      exact hf b (List.mem_cons_self ..)
    have hrest : ∀ c ∈ rest, ((readWord (wordOf b 0) s).2.store.buffer c).state ≠ .free := fun c hc => by
      rw [readWord_state]
      exact hf c (List.mem_cons_of_mem _ hc)
    have same : ∀ c ∈ rest, (readWord (wordOf b 0) s).2.store.given (wordOf c 0) = s.store.given (wordOf c 0) := fun c hc =>
      readWord_given_of_ne hw (wordOf_ne (ne_of_mem_of_not_mem hc hnot) 0)
    show (b, headerOf (readWord (wordOf b 0) s).1) :: (readHeaders rest (readWord (wordOf b 0) s).2).1 = _
    rw [ih hn hrest, readWord_bytes, List.map_cons, List.map_congr_left fun c hc => by rw [same c hc]]

/-- The header read damages the buffers whose word 0 is double upset, and changes no other record (R22, R115). -/
theorem readHeaders_buffer (c : BufferId) : (readHeaders bs s).2.store.buffer c =
    if c ∈ bs then ⟨(s.store.buffer c).state, (s.store.buffer c).damaged || s.store.condition (wordOf c 0) = .doubleUpset⟩
    else s.store.buffer c := by
  induction bs generalizing s with
  | nil => simp [readHeaders]
  | cons b rest ih =>
    obtain ⟨hnot, hn⟩ := List.nodup_cons.mp hn
    have hw : (s.store.buffer (bufferOf (wordOf b 0))).state ≠ .free := by
      rw [bufferOf_wordOf]
      exact hf b (List.mem_cons_self ..)
    have hrest : ∀ c ∈ rest, ((readWord (wordOf b 0) s).2.store.buffer c).state ≠ .free := fun c hc => by
      rw [readWord_state]
      exact hf c (List.mem_cons_of_mem _ hc)
    refine (ih hn hrest).trans ?_
    rw [readWord_buffer hw, bufferOf_wordOf]
    by_cases hc : c = b
    · subst hc
      simp [hnot]
    · simp only [hc, if_false, List.mem_cons, false_or, readWord_condition_of_ne (wordOf_ne hc 0) hw]

end

/-! ### What SUBMIT does -/

/-- The checks of SUBMIT in their order, with what the header read gives and leaves (R114, R115, R116). -/
theorem submit_eq (m : Master) (count : Byte) {orders : List OrderBytes} {s read : State} {headers : List (BufferId × Header)}
    (hr : readHeaders (sendBuffers (ordersOf orders)) s = (headers, read)) : submit m count orders s =
    if ¬(1 ≤ count.toNat ∧ count.toNat ≤ 8) ∨ ∃ o ∈ orders, parseOrder o = .badArg then refuse .badArg s
    else if ∃ o ∈ orders, parseOrder o = .badBuffer then refuse .badBuffer s
    else if ∃ b ∈ sendBuffers (ordersOf orders), (s.store.buffer b).state ≠ .owned m then refuse .notYours s
    else if 8 ≤ jobCount m s then refuse .full s
    else if ∃ b ∈ sendBuffers (ordersOf orders), (read.store.buffer b).damaged = true then refuse .damaged read
    else if ∃ h ∈ headers, h.2.bad = true then refuse .badFrame read
    else takeJob m ((ordersOf orders).map (cacheHeader headers)) (sendBuffers (ordersOf orders)) read := by
  have counted : submitOrderCount count = 0 ↔ ¬(1 ≤ count.toNat ∧ count.toNat ≤ 8) := by
    unfold submitOrderCount
    split <;> omega
  have found (p : ParsedOrder) : (orders.map parseOrder).contains p = true ↔ ∃ o ∈ orders, parseOrder o = p := by
    rw [List.contains_iff_mem, List.mem_map]
  have taken : (orders.map parseOrder).filterMap ParsedOrder.order? = ordersOf orders := rfl
  simp only [submit, Bool.or_eq_true, decide_eq_true_eq, counted, found, List.any_eq_true, Config.jobCapacity, taken, hr]

theorem exec_submit {m : Master} {count : Byte} {orders : List OrderBytes} {s : State} {r : Reply}
    (h : Ready m 0x40 (count :: orders.flatMap bytesOfOrder) s) (hr : submit m count orders s = r) :
    exec (.submit m count orders) s = .next (answered m r.status r.results r.state) := by
  rw [exec_of_ready rfl rfl h, hr]

/-- What makes a header a BAD FRAME, as the laws say it (R115). -/
theorem Header.bad_iff (h : Header) : h.bad = true ↔ 240 < h.length.toNat ∨
    h.kind ∉ ([0x10, 0x20, 0x30, 0x31, 0x40, 0x41] : List Byte) ∨ h.destination = 0 ∨
    ¬(1 ≤ h.source.toNat ∧ h.source.toNat ≤ 0xDF) := by
  simp only [Header.bad, Bool.or_eq_true, decide_eq_true_eq, Option.isNone_iff_eq_none, ofByte_eq_none, Bool.not_eq_true',
    Bool.eq_false_iff, ne_eq, isUnicast_iff, or_assoc]

/-- Where no buffer is damaged after the header read, each header is that of word 0 as written (R3, R115). -/
theorem readHeaders_fst_of_undamaged {bs : List BufferId} {s : State} (hn : bs.Nodup)
    (hf : ∀ b ∈ bs, (s.store.buffer b).state ≠ .free) (hd : ∀ b ∈ bs, ((readHeaders bs s).2.store.buffer b).damaged = false) :
    (readHeaders bs s).1 = bs.map fun b => (b, headerOf (s.store.written (wordOf b 0))) := by
  rw [readHeaders_fst hn hf]
  refine List.map_congr_left fun b hb => ?_
  have sound := hd b hb
  rw [readHeaders_buffer hn hf, if_pos hb, Bool.or_eq_false_iff, decide_eq_false_iff_not] at sound
  rw [Store.given, if_neg sound.2]

/-- Settles O32: each refusal by the first check that fails, and each order by its code. -/
theorem submitRefusals : Obligations.SubmitRefusals := by
  unfold Obligations.SubmitRefusals
  intro m count orders s h bad far sent foreign named read damaged misformed
  have members (b : BufferId) : b ∈ sendBuffers (ordersOf orders) ↔ sent b := mem_sendBuffers_ordersOf
  have same_read : (readHeaders (sendBuffers (ordersOf orders)) s).2 = read := by
    rw [readHeaders_snd, sendBuffers_ordersOf]
  have checks := submit_eq m count (Prod.ext rfl same_read : readHeaders (sendBuffers (ordersOf orders)) s = (_, read))
  have foreign_iff : (∃ b ∈ sendBuffers (ordersOf orders), (s.store.buffer b).state ≠ .owned m) ↔ foreign :=
    exists_congr fun b => and_congr_left' (members b)
  have damaged_iff : (∃ b ∈ sendBuffers (ordersOf orders), (read.store.buffer b).damaged = true) ↔ damaged :=
    exists_congr fun b => and_congr_left' (members b)
  have misformed_iff (hf : ¬foreign) (hd : ¬damaged) :
      (∃ x ∈ (readHeaders (sendBuffers (ordersOf orders)) s).1, x.2.bad = true) ↔ misformed := by
    rw [← foreign_iff] at hf
    rw [← damaged_iff] at hd
    push Not at hf hd
    rw [readHeaders_fst_of_undamaged (nodup_sendBuffers _) (fun b hb => by rw [hf b hb]; simp)
      (fun b hb => by rw [same_read]; simpa using hd b hb)]
    simp only [List.mem_map, exists_exists_and_eq_and, Header.bad_iff, members]
    exact exists_congr fun b => by simp
  refine ⟨fun hb => ?_, fun hb hfar => ?_, fun hb hfar hf => ?_, fun hb hfar hf hj => ?_, fun hb hfar hf hj hd => ?_,
    fun hb hfar hf hj hd hm => ?_, ?orders⟩
  case orders =>
    intro o value taken
    exact ⟨parseOrder_of_not_coded, fun hf => ⟨fun hc => ⟨parseOrder_send_far hf hc, fun b => parseOrder_send hf hc⟩,
      parseOrder_await hf, parseOrder_branch hf, parseOrder_wait hf, parseOrder_finish hf⟩⟩
  · exact exec_submit h (r := refuse .badArg s) (by rw [checks, if_pos hb])
  · exact exec_submit h (r := refuse .badBuffer s) (by rw [checks, if_neg hb, if_pos hfar])
  · exact exec_submit h (r := refuse .notYours s) (by rw [checks, if_neg hb, if_neg hfar, if_pos (foreign_iff.mpr hf)])
  · exact exec_submit h (r := refuse .full s)
      (by rw [checks, if_neg hb, if_neg hfar, if_neg (foreign_iff.not.mpr hf), if_pos hj])
  · exact exec_submit h (r := refuse .damaged read)
      (by rw [checks, if_neg hb, if_neg hfar, if_neg (foreign_iff.not.mpr hf), if_neg (Nat.not_le.mpr hj),
        if_pos (damaged_iff.mpr hd)])
  · exact exec_submit h (r := refuse .badFrame read)
      (by rw [checks, if_neg hb, if_neg hfar, if_neg (foreign_iff.not.mpr hf), if_neg (Nat.not_le.mpr hj),
        if_neg (damaged_iff.not.mpr hd), if_pos ((misformed_iff hf hd).mpr hm)])

/-! ### The job that SUBMIT queues -/

/-- The tag of a new job is the first one from the tag counter that is not in use (R112). -/
theorem newTag_first (m : Master) (s : State) : ∃ k, newTag m s = s.jobs.tagCounter.get m + BitVec.ofNat 8 k ∧ k < 256 ∧
    ∀ j < k, s.jobs.tagCounter.get m + BitVec.ofNat 8 j ∈ tagsInUse m s := by
  unfold newTag
  simp only [List.find?_map]
  cases hf : (List.range 256).find? ((fun t => !(tagsInUse m s).contains t) ∘ fun i => s.jobs.tagCounter.get m + BitVec.ofNat 8 i) with
  | none => exact ⟨0, by simp⟩
  | some k =>
    obtain ⟨-, hk, before⟩ := List.find?_range_eq_some.mp hf
    exact ⟨k, rfl, List.mem_range.mp hk, fun j hj => by simpa using before j hj⟩

theorem newTag_of_jobs {m : Master} {s t : State} (h : t.jobs = s.jobs) : newTag m t = newTag m s := by
  simp only [newTag, tagsInUse, h]

/-- Several buffers put in one state: the records are all that changes (R116). -/
theorem foldl_setState_eq (bs : List BufferId) (v : BufferState) (st : Store) :
    bs.foldl (fun st b => st.setState b v) st =
      { st with buffers := (bs.foldl (fun st b => st.setState b v) st).buffers } := by
  induction bs generalizing st with
  | nil => rfl
  | cons b rest ih => exact ih (st.setState b v)

/-- A job taken reaches the job engine and the buffer records only (R116). -/
theorem takeJob_state_eq (m : Master) (orders : List JobOrder) (bs : List BufferId) (s : State) :
    let t := (takeJob m orders bs s).state
    t = { s with jobs := t.jobs, store := { s.store with buffers := t.store.buffers } } :=
  congrArg (fun st => { s with jobs := (takeJob m orders bs s).state.jobs, store := st }) (foldl_setState_eq ..)

/-- A SEND order takes the header of its buffer, and every other order none (R112, R115). -/
theorem cacheHeader_of_read {list : List Order} {o : Order} (ho : o ∈ list) (f : BufferId → Header) :
    cacheHeader ((sendBuffers list).map fun b => (b, f b)) o = ⟨o, o.buffer?.map f⟩ := by
  cases hb : o.buffer? with
  | none => simp only [cacheHeader, hb, Option.bind_none, Option.map_none]
  | some b =>
    simp only [cacheHeader, hb, Option.bind_some, Option.map_some, List.lookup_graph f (mem_sendBuffers.mpr ⟨o, ho, hb⟩)]

/-- A SEND buffer that SUBMIT accepts: OWNED by the requester, undamaged, its first word not double upset and its header good (R115). -/
def Submittable (m : Master) (s : State) (b : BufferId) : Prop :=
  s.store.buffer b = ⟨.owned m, false⟩ ∧ s.store.condition (wordOf b 0) ≠ .doubleUpset ∧
    (headerOf (s.store.written (wordOf b 0))).bad = false

section

variable {m : Master} {list : List Order} {s : State} (hs : ∀ b ∈ sendBuffers list, Submittable m s b)

include hs

/-- A header read that meets no double-upset word changes no buffer record (R20, R115). -/
theorem readHeaders_buffer_of_submittable (b : BufferId) :
    (readHeaders (sendBuffers list) s).2.store.buffer b = s.store.buffer b := by
  rw [readHeaders_buffer (nodup_sendBuffers list) fun b hb => by simp [(hs b hb).1]]
  split
  · rename_i hb
    obtain ⟨owned, readable, -⟩ := hs b hb
    simp [owned, readable]
  · rfl

/-- A SUBMIT that passes every check takes its job, each SEND order with the header of its buffer as written (R114, R115, R116). -/
theorem submit_of_submittable {count : Byte} {orders : List OrderBytes} (hc : 1 ≤ count.toNat ∧ count.toNat ≤ 8)
    (hp : orders.map parseOrder = list.map .ok) (hj : jobCount m s < 8) : submit m count orders s = takeJob m
      (list.map fun o => ⟨o, o.buffer?.map fun b => headerOf (s.store.written (wordOf b 0))⟩) (sendBuffers list)
      (readHeaders (sendBuffers list) s).2 := by
  have all_parsed {p : ParsedOrder} (h : p ∉ list.map ParsedOrder.ok) : ¬∃ o ∈ orders, parseOrder o = p := by
    rwa [← List.mem_map, hp]
  have owned : ¬∃ b ∈ sendBuffers list, (s.store.buffer b).state ≠ .owned m := by
    rintro ⟨b, hb, foreign⟩
    exact foreign (by rw [(hs b hb).1])
  have undamaged : ∀ b ∈ sendBuffers list, ((readHeaders (sendBuffers list) s).2.store.buffer b).damaged = false := fun b hb => by
    rw [readHeaders_buffer_of_submittable hs, (hs b hb).1]
  have headers := readHeaders_fst_of_undamaged (nodup_sendBuffers list) (fun b hb => by simp [(hs b hb).1]) undamaged
  have well_formed : ¬∃ x ∈ (readHeaders (sendBuffers list) s).1, x.2.bad = true := by
    rw [headers]
    simpa using fun b hb => (hs b hb).2.2
  have same_orders := ordersOf_of_parsed hp
  subst same_orders
  rw [submit_eq m count rfl, if_neg (not_or.mpr ⟨not_not_intro hc, all_parsed (by simp)⟩), if_neg (all_parsed (by simp)),
    if_neg owned, if_neg (Nat.not_le.mpr hj), if_neg (by simpa using undamaged), if_neg well_formed, headers,
    List.map_congr_left fun o ho => cacheHeader_of_read ho _]

end

/-- Settles O31: every check passes, so that the job is taken with the first tag that is not in use. -/
theorem submitQueuesTheJob : Obligations.SubmitQueuesTheJob := by
  unfold Obligations.SubmitQueuesTheJob
  intro m count orders list s h hlow hhigh hparsed hsent hroom named read
  have members (b : BufferId) : b ∈ sendBuffers list ↔ named b = true := by
    simp only [mem_sendBuffers, named, List.any_eq_true, decide_eq_true_eq]
  have same_read : (readHeaders (sendBuffers list) s).2 = read := readHeaders_snd ..
  have submittable : ∀ b ∈ sendBuffers list, Submittable m s b := fun b hb => by
    obtain ⟨o, ho, hob⟩ := mem_sendBuffers.mp hb
    exact hsent o ho b hob
  have queued := submit_of_submittable submittable ⟨hlow, hhigh⟩ hparsed hroom
  have records := readHeaders_buffer_of_submittable submittable
  obtain ⟨-, -, -, -, -, -, jobs, -⟩ := readHeaders_sameBesideStore (sendBuffers list) s
  rw [same_read] at queued records jobs
  have same_tag : newTag m read = newTag m s := newTag_of_jobs jobs
  have few : (tagsInUse m s).length ≤ 8 := by
    rw [tagsInUse_eq, ← jobCount_eq]
    exact Nat.le_of_lt hroom
  obtain ⟨k, htag, hk, before⟩ := newTag_first m s
  refine ⟨k, newTag m read, same_tag.trans htag, hk, same_tag ▸ newTag_not_mem few, before, _, exec_submit h queued, ?_, fun b => ?_,
    takeJob_state_eq ..⟩
  · simp only [takeJob, jobs]
  · refine (buffer_foldl_setState ..).trans ?_
    by_cases hb : b ∈ sendBuffers list
    · rw [if_pos hb, if_pos ((members b).mp hb), records, (submittable b hb).1]
    · rw [if_neg hb, if_neg (mt (members b).mpr hb), records]

end Sys2Proof.Machine
end

section
/-!
PROOFS. CANCEL: of a QUEUED job, of the RUNNING job by what it is doing, and of a tag that names neither (R131 to R134).
-/

namespace Sys2Proof.Machine

section

variable {m : Master} {tag : Byte} {s : State}

theorem cancel_of_queued (hq : ((s.jobs.outbound.get m).any fun j => j.tag = tag) = true) :
    cancel m tag s = ⟨.ok, [], cancelQueued m tag s⟩ := by
  simp only [cancel, hq, if_true]

variable (hq : ((s.jobs.outbound.get m).any fun j => j.tag = tag) = false)

include hq

theorem cancel_of_running {r : Running} (hr : s.jobs.running = some r) (hm : r.job.master = m) (ht : r.job.tag = tag) :
    cancel m tag s = ⟨.ok, [], endInProgress .cancelled s⟩ := by
  simp only [cancel, hq, Bool.false_eq_true, if_false, hr, hm, ht, and_self, if_true]

theorem cancel_of_unknown (hr : ∀ r ∈ s.jobs.running, ¬(r.job.master = m ∧ r.job.tag = tag)) :
    cancel m tag s = refuse .notFound s := by
  cases h : s.jobs.running with
  | none => simp only [cancel, hq, Bool.false_eq_true, if_false, h]
  | some r => simp only [cancel, hq, Bool.false_eq_true, if_false, h, if_neg (hr r h)]

end

/-- Settles O33: by where the job stands and, for the RUNNING job, by what it is doing. -/
theorem cancelEndsTheJob : Obligations.CancelEndsTheJob := by
  unfold Obligations.CancelEndsTheJob
  intro m tag s h queued
  refine ⟨fun hq => ?_, fun hq hr => ?_, fun hq r hr hm ht => ?_⟩
  · rw [exec_of_ready rfl rfl h, cancel_of_queued hq]
    rfl
  · rw [exec_of_ready rfl rfl h, cancel_of_unknown hq hr]
    rfl
  · have ends : exec (.cancel m tag) s = .next (answered m .ok [] (endInProgress .cancelled s)) := by
      rw [exec_of_ready rfl rfl h, cancel_of_running hq hr hm ht]
    rw [ends]
    refine ⟨fun left hd => ?_, fun key left hd => ?_, fun hd hw => ?_, fun hd hw hp => ?_, fun hd hw hp => ?_⟩
    · rw [endInProgress_of_wait hr hd]
      rfl
    · rw [endInProgress_of_await hr hd, silenceAwait_of_await hr hd, hm]
      rfl
    · rw [endInProgress_of_waiting hr hd hw]
      rfl
    · obtain ⟨p, hp⟩ := Option.ne_none_iff_exists'.mp hp
      have kept : setRunning (some { r with job := { r.job with pendingEnd := some p } }) s = s := by
        rw [← hp, setRunning, ← hr]
      rw [endInProgress_of_sending hr hd hw, hp, Option.orElse_some, kept]
    · rw [endInProgress_of_sending hr hd hw, hp, Option.orElse_none]
      rfl

end Sys2Proof.Machine
end

section
/-!
PROOFS. GRANT: the job that the tenure arbiter chooses (R117, R118), and the attempt that the grant leaves due (R119, R120, R147).
-/

namespace Sys2Proof.Machine

/-! ### Which job is granted -/

/-- The head of a master's outbound queue, with the rest of the queue, if it is eligible (R118). -/
def eligibleHead (s : State) (m : Master) : Option (Master × Job × List Job) :=
  match s.jobs.outbound.get m with
  | [] => none
  | j :: rest => if eligible s.holds j then some (m, j, rest) else none

theorem chosen_eq (s : State) : chosen s = (Master.startingAt s.jobs.pointer).findSome? (eligibleHead s) := rfl

theorem eligibleHead_of_eligible {s : State} {m : Master} {j : Job} {rest : List Job} (hm : s.jobs.outbound.get m = j :: rest)
    (he : eligible s.holds j = true) : eligibleHead s m = some (m, j, rest) := by
  simp only [eligibleHead, hm, he, if_true]

theorem eligibleHead_eq_none {s : State} {m : Master}
    (h : ∀ j rest, s.jobs.outbound.get m = j :: rest → eligible s.holds j = false) : eligibleHead s m = none := by
  cases hm : s.jobs.outbound.get m with
  | nil => simp only [eligibleHead, hm]
  | cons j rest => simp only [eligibleHead, hm, h j rest hm, Bool.false_eq_true, if_false]

/-- The arbiter chooses the first master from the pointer whose head is eligible (R117). -/
theorem chosen_of_first {s : State} {m : Master} {j : Job} {before after : List Master} {rest : List Job}
    (hp : Master.startingAt s.jobs.pointer = before ++ m :: after)
    (hb : ∀ n ∈ before, ∀ h tail, s.jobs.outbound.get n = h :: tail → eligible s.holds h = false)
    (hm : s.jobs.outbound.get m = j :: rest) (he : eligible s.holds j = true) : chosen s = some (m, j, rest) := by
  have passed : before.findSome? (eligibleHead s) = none :=
    List.findSome?_eq_none_iff.mpr fun n hn => eligibleHead_eq_none (hb n hn)
  rw [chosen_eq, hp, List.findSome?_append, passed, Option.none_or, List.findSome?_cons, eligibleHead_of_eligible hm he]

theorem chosen_eq_none {s : State}
    (h : ∀ n ∈ Master.all, ∀ j rest, s.jobs.outbound.get n = j :: rest → eligible s.holds j = false) : chosen s = none :=
  List.findSome?_eq_none_iff.mpr fun n _ => eligibleHead_eq_none (h n n.mem_all)

theorem exec_grant_of_chosen {s : State} {m : Master} {j : Job} {rest : List Job} (hr : s.jobs.running = none)
    (hu : s.line.state.isUp = true) (hl : s.line.settings.listenOnly = false) (hc : chosen s = some (m, j, rest)) :
    exec .grant s = .next (grantTo m j rest s) := by
  show execGrant s = _
  simp only [execGrant, hr, hu, hl, hc, Option.isNone_none, Bool.not_false, Bool.and_self, if_true]

/-- No grant is made unless every condition of R117 holds. -/
theorem exec_grant_of_not {s : State} (h : s.jobs.running ≠ none ∨ s.line.state.isUp = false ∨ s.line.settings.listenOnly = true ∨
    chosen s = none) : exec .grant s = .next s := by
  show execGrant s = _
  rcases h with hr | hu | hl | hc
  · simp only [execGrant, Option.isNone_eq_false_iff.mpr (Option.isSome_iff_ne_none.mpr hr), Bool.false_and, Bool.false_eq_true, if_false]
  · simp only [execGrant, hu, Bool.and_false, Bool.false_and, Bool.false_eq_true, if_false]
  · simp only [execGrant, hl, Bool.not_true, Bool.and_false, Bool.false_eq_true, if_false]
  · simp only [execGrant, hc, ite_self]

/-! ### Eligible jobs -/

/-- An order that is no SEND has no cached destination. -/
theorem JobOrder.destination?_of_not_send {o : JobOrder} (h : ∀ b, o.order ≠ .send b) : o.destination? = none := by
  obtain ⟨order, header⟩ := o
  cases order with
  | send b => exact absurd rfl (h b)
  | _ => rfl

theorem findSome?_destination_of_not_send {orders : List JobOrder} (h : ∀ o ∈ orders, ∀ b, o.order ≠ .send b) :
    orders.findSome? JobOrder.destination? = none :=
  List.findSome?_eq_none_iff.mpr fun o ho => JobOrder.destination?_of_not_send (h o ho)

theorem eligible_of_no_send (holds : List HoldEntry) {j : Job} (h : ∀ o ∈ j.orders, ∀ b, o.order ≠ .send b) :
    eligible holds j = true := by
  simp only [eligible, Job.firstDestination, findSome?_destination_of_not_send h]

/-- A job with a SEND order is eligible exactly while the first one's cached destination is not held (R118). -/
theorem eligible_iff_of_send (holds : List HoldEntry) {j : Job} {before after : List JobOrder} {b : BufferId} {h : Header}
    (hj : j.orders = before ++ ⟨.send b, some h⟩ :: after) (hb : ∀ o ∈ before, ∀ c, o.order ≠ .send c) :
    eligible holds j = true ↔ ∀ e ∈ holds, e.station ≠ h.destination := by
  have first : j.firstDestination = some h.destination := by
    rw [Job.firstDestination, hj, List.findSome?_append, findSome?_destination_of_not_send hb, Option.none_or]
    rfl
  simp only [eligible, first, Bool.not_eq_true', Bool.eq_false_iff, ne_eq, isHeld_iff, not_exists, not_and]

/-! ### The attempt that a grant leaves due -/

/-- Every step that is a command of a port has an effect (R169). -/
theorem effectOf_of_commandBytes {i : Instr} {m : Master} {code : Byte} {args : List Byte}
    (h : commandBytes i = some (m, code, args)) : ∃ e, effectOf i = some e := by
  cases i <;> simp [commandBytes, effectOf] at h ⊢

/-- A command is taken of the state in which an attempt that was due has begun (R163; assumption log 17). -/
theorem commandStep_takeAttempt {m : Master} {code : Byte} {args : List Byte} {s : State} (hc : s.clearing = false)
    (ha : awaits (s.ports.get m) code args = true) (effect : State → Reply) :
    commandStep m code args effect s = commandStep m code args effect (takeAttempt s) := by
  obtain ⟨-, clearing, -, -, -, -, -, -, -, -, -, ports, -⟩ := takeAttempt_sameBesideAttempt s
  simp only [commandStep, takeCommand, clearing, ports, hc, ha, if_true, Bool.false_eq_true, if_false, takeAttempt_takeAttempt]

theorem exec_command_takeAttempt {i : Instr} {m : Master} {code : Byte} {args : List Byte} {s : State}
    (hb : commandBytes i = some (m, code, args)) (hc : s.clearing = false) (ha : awaits (s.ports.get m) code args = true) :
    exec i s = exec i (takeAttempt s) := by
  obtain ⟨e, he⟩ := effectOf_of_commandBytes hb
  rw [exec_command hb he, exec_command hb he, ← commandStep_takeAttempt hc ha]

/-- A frame end for which time has still to pass comes after the attempt (R148; assumption log 17). -/
theorem exec_frameEnd_takeAttempt {s : State} (hf : s.receiver ≠ none) (hw : endGapWait s ≠ 0) :
    exec .frameEnd s = exec .frameEnd (takeAttempt s) := by
  obtain ⟨f, hf⟩ := Option.ne_none_iff_exists'.mp hf
  obtain ⟨-, -, -, receiver, -⟩ := takeAttempt_sameBesideAttempt s
  have before : attemptBeforeFrameEnd s = attemptBeforeFrameEnd (takeAttempt s) := by
    simp only [attemptBeforeFrameEnd, hw, if_false, takeAttempt_takeAttempt, ite_self]
  show execFrameEnd s = execFrameEnd (takeAttempt s)
  simp only [execFrameEnd, receiver, hf, before]

/-- An event that lets the attempt begin first is the same event after it. -/
theorem exec_takeAttempt_of_event {i : Instr} (event : State → State) (h : ∀ s, exec i s = .next (event (takeAttempt s))) (s : State) :
    exec i s = exec i (takeAttempt s) := by
  rw [h, h, takeAttempt_takeAttempt]

/-- A step before which an attempt that is due begins is the step taken after it (R147; assumption log 17). -/
theorem exec_takeAttempt {i : Instr} {s : State} (h : BeginsAttempt s i) : exec i s = exec i (takeAttempt s) := by
  cases i with
  | addressCharacter data stop runs low =>
    exact exec_takeAttempt_of_event (receiveCharacter (takeAddress data stop) (lowAfter stop low) runs) (fun _ => rfl) s
  | bodyCharacter data stop runs low =>
    exact exec_takeAttempt_of_event (receiveCharacter (takeBody data stop) (lowAfter stop low) runs) (fun _ => rfl) s
  | frameEnd =>
    obtain ⟨hf, hw⟩ := h
    exact exec_frameEnd_takeAttempt hf hw
  | attemptBeginsSending => exact exec_takeAttempt_of_event sendAttempt (fun _ => rfl) s
  | automaticBusyStart => exact exec_takeAttempt_of_event sendBusy (fun _ => rfl) s
  | characterSent echo low => exact exec_takeAttempt_of_event (characterSent echo low) (fun _ => rfl) s
  | deRelease => exact exec_takeAttempt_of_event turnaroundEnds (fun _ => rfl) s
  | responseTimerExpiry => exact exec_takeAttempt_of_event responseExpires (fun _ => rfl) s
  | waitTimerExpiry => exact exec_takeAttempt_of_event waitExpires (fun _ => rfl) s
  | tenureTimerExpiry => exact exec_takeAttempt_of_event tenureExpires (fun _ => rfl) s
  | silenceTimeout => exact exec_takeAttempt_of_event silenceExpires (fun _ => rfl) s
  | qualificationWindowExpiry => exact exec_takeAttempt_of_event windowExpires (fun _ => rfl) s
  | holdEntryExpiry => exact exec_takeAttempt_of_event holdExpires (fun _ => rfl) s
  | timeBaseIncrement => exact exec_takeAttempt_of_event countMicrosecond (fun _ => rfl) s
  | _ =>
    obtain ⟨m, code, args, hb, hc, ha⟩ := h
    exact exec_command_takeAttempt hb hc ha

/-- Settles O36: the grant by what the arbiter chooses, the orders that are due by their kind, and the attempt by the step before which
it begins. -/
theorem grantRunsTheFirstEligibleHead : Obligations.GrantRunsTheFirstEligibleHead := by
  unfold Obligations.GrantRunsTheFirstEligibleHead
  refine ⟨fun s => ⟨?granted, ?void, fun j => ⟨eligible_of_no_send s.holds, fun before b h after => eligible_iff_of_send s.holds⟩⟩,
    fun fuel s => ⟨rfl, takeAttempt_settled s, takeAttempt_of_settled, fun r hr => ?due⟩, fun i s => exec_takeAttempt⟩
  case granted =>
    intro hr hu hl before m after j rest hp hb hm he
    rw [exec_grant_of_chosen hr hu hl (chosen_of_first hp hb hm he)]
    rfl
  case void =>
    intro h
    exact exec_grant_of_not (h.imp_right fun h => h.imp_right fun h => h.imp_right chosen_eq_none)
  case due =>
    intro runs
    refine ⟨fun b h => takeAttempt_of_due hr, fun b h ho hs => orderReached_send hr fuel hs ho, fun condition target h ho hs => ?_⟩
    intro met taken
    rw [orderReached_branch hr fuel hs ho]
    refine ⟨fun hm => ?_, fun hm => ?_⟩
    · rw [if_pos ((condition.met_iff _).mpr hm)]
      rfl
    · rw [if_neg (mt (condition.met_iff _).mp hm)]
      rfl

end Sys2Proof.Machine
end

section
/-!
PROOFS. The hold list: the entry that a HOLD replaces in a full list, what a HOLD does to the list, and the expiry of entries (R142, R143,
R145).
-/

namespace Sys2Proof.Machine

/-! ### The least entry -/

/-- No entry has less remaining time than the least one. -/
theorem leastEntry_le {holds : List HoldEntry} {e : HoldEntry} (h : leastEntry holds = some e) :
    ∀ x ∈ holds, e.remaining ≤ x.remaining := by
  induction holds generalizing e with
  | nil => cases h
  | cons f rest ih =>
    unfold leastEntry at h
    split at h
    · rename_i none_left
      cases h
      simp [leastEntry_eq_none none_left]
    · rename_i g least
      have above := ih least
      split at h <;> cases h
      · rename_i le
        exact List.forall_mem_cons.mpr ⟨le_rfl, fun x hx => le.trans (above x hx)⟩
      · rename_i gt
        exact List.forall_mem_cons.mpr ⟨(not_le.mp gt).le, above⟩

theorem exists_leastEntry_of_mem {holds : List HoldEntry} {e : HoldEntry} (h : e ∈ holds) : ∃ f, leastEntry holds = some f :=
  Option.ne_none_iff_exists'.mp fun none_left => List.ne_nil_of_mem h (leastEntry_eq_none none_left)

/-- The least entry is the earliest of those with the least remaining time (R143). -/
theorem leastEntry_of_first {before after : List HoldEntry} {e : HoldEntry} (hb : ∀ x ∈ before, e.remaining < x.remaining)
    (ha : ∀ x ∈ after, e.remaining ≤ x.remaining) : leastEntry (before ++ e :: after) = some e := by
  induction before with
  | nil =>
    rw [List.nil_append, leastEntry]
    split
    · rfl
    · rename_i f least
      exact if_pos (ha f (leastEntry_mem least))
  | cons x before ih =>
    obtain ⟨later, hb⟩ := List.forall_mem_cons.mp hb
    rw [List.cons_append, leastEntry, ih hb]
    exact if_neg (not_le.mpr later)

/-! ### A HOLD taken -/

section
variable {station : Byte} {holds : List HoldEntry}

theorem not_isHeld (h : ∀ e ∈ holds, e.station ≠ station) : ¬isHeld holds station = true := fun held =>
  have ⟨e, he, same⟩ := (isHeld_iff ..).mp held
  h e he same

/-- A station in the list: its entry restarts in its place (R142). -/
theorem takeHold_of_held (time : Nat) (h : ∃ e ∈ holds, e.station = station) :
    takeHold station time holds = holds.map fun e => if e.station = station then ⟨e.station, time⟩ else e :=
  if_pos ((isHeld_iff ..).mpr h)

/-- A new station where there is room: its entry comes last (R142). -/
theorem takeHold_of_room (time : Nat) (h : ∀ e ∈ holds, e.station ≠ station) (room : holds.length < 8) :
    takeHold station time holds = holds ++ [⟨station, time⟩] :=
  (if_neg (not_isHeld h)).trans (if_pos room)

/-- A new station where there is no room: its entry comes last, and the least entry leaves the list (R142, R143). -/
theorem takeHold_of_full (time : Nat) (h : ∀ e ∈ holds, e.station ≠ station) (full : 8 ≤ holds.length) {e : HoldEntry}
    (least : leastEntry holds = some e) : takeHold station time holds = holds.erase e ++ [⟨station, time⟩] := by
  have no_room : ¬holds.length < Config.holdCapacity := not_lt.mpr full
  rw [takeHold, if_neg (not_isHeld h), if_neg no_room, least]

end

/-- An entry that stands behind entries with more remaining time only is removed from its own place. -/
theorem erase_first {before after : List HoldEntry} {e : HoldEntry} (hb : ∀ x ∈ before, e.remaining < x.remaining) :
    (before ++ e :: after).erase e = before ++ after := by
  rw [List.erase_append_right _ fun he => (hb e he).false, List.erase_cons_head]

/-! ### Entries expire -/

/-- The time that passes at an expiry is the remaining time of any entry that has the least, and all that are then at 0 go (R145). -/
theorem holdExpires_of_least {s : State} {e : HoldEntry} (he : e ∈ s.holds) (least : ∀ x ∈ s.holds, e.remaining ≤ x.remaining) :
    holdExpires s = { lineTime e.remaining s with
      holds := (s.holds.map fun x => (⟨x.station, x.remaining - e.remaining⟩ : HoldEntry)).filter fun x => x.remaining ≠ 0 } := by
  obtain ⟨f, hf⟩ := exists_leastEntry_of_mem he
  have same : f.remaining = e.remaining := le_antisymm (leastEntry_le hf e he) (least f (leastEntry_mem hf))
  simp only [holdExpires, hf, same, lineTime_holds]

/-- Settles O45: a HOLD by what the list holds when it is taken, and the expiry by an entry with the least remaining time. -/
theorem holdListRules : Obligations.HoldListRules := by
  unfold Obligations.HoldListRules
  refine ⟨fun station time holds => ⟨takeHold_of_held time, fun new => ⟨takeHold_of_room time new, ?full⟩⟩,
    fun s e hs he least => ?expiry⟩
  case full =>
    rintro full before e after rfl hb ha
    rw [takeHold_of_full time new full (leastEntry_of_first hb ha), erase_first hb]
  case expiry =>
    show Host.Outcome.next (holdExpires (takeAttempt s)) = _
    rw [takeAttempt_of_settled hs, holdExpires_of_least he least]

end Sys2Proof.Machine
end

section
/-!
PROOFS. The notice sources: raising a request, ATTN#, the source that NOTICE takes, RELEASE and MASK (R150 to R157); STATS (R182).
-/

namespace Sys2Proof.Machine

/-! ### The five sources -/

namespace NoticeSource

theorem mem_all (n : NoticeSource) : n ∈ all := by cases n <;> decide

/-- The sources are listed from the highest priority to the lowest (R150). -/
theorem all_pairwise_number_lt : all.Pairwise fun x y => x.number < y.number := by decide

theorem ofNumber_number (n : NoticeSource) : ofNumber n.number = some n := by cases n <;> rfl

theorem number_range (n : NoticeSource) : 1 ≤ n.number ∧ n.number ≤ 5 := by cases n <;> decide

theorem ofNumber_of_not_range {k : Nat} (h : ¬(1 ≤ k ∧ k ≤ 5)) : ofNumber k = none :=
  List.find?_eq_none.mpr fun n _ hn => h (of_decide_eq_true hn ▸ n.number_range)

end NoticeSource

/-! ### What may be taken -/

theorem Notices.takeable_iff {x : Notices} {n : NoticeSource} : x.takeable n = true ↔
    x.enable.get n = true ∧ x.request.get n = true ∧ ∀ y ∈ x.active, n.number < y.number := by
  simp only [takeable, Bool.and_eq_true, List.all_eq_true, decide_eq_true_eq, and_assoc]

/-- ATTN# follows the takeable sources (R153). -/
theorem attnLow_iff {m : Master} {s : State} : attnLow m s = true ↔ ∃ n, (s.notices.get m).takeable n = true := by
  simp only [attnLow, List.any_eq_true, NoticeSource.mem_all, true_and]

theorem next_of_attn_high {m : Master} {s : State} (h : attnLow m s = false) : (s.notices.get m).next = none :=
  List.find?_eq_none.mpr fun n _ hn => Bool.eq_false_iff.mp h (attnLow_iff.mpr ⟨n, hn⟩)

/-- The first takeable source of the list is the one with the least number, that is the highest priority (R154). -/
theorem Notices.next_of_highest {x : Notices} {n : NoticeSource} (takeable : x.takeable n = true)
    (highest : ∀ y, x.takeable y = true → n.number ≤ y.number) : x.next = some n := by
  cases found : x.next with
  | none => exact absurd takeable (List.find?_eq_none.mp found n n.mem_all)
  | some first =>
    obtain ⟨first_takeable, before, after, split, untakeable⟩ := List.find?_eq_some_iff_append.mp found
    have sorted := NoticeSource.all_pairwise_number_lt
    have listed := n.mem_all
    rw [split] at sorted listed
    obtain h | h | h : n ∈ before ∨ n = first ∨ n ∈ after := by simpa using listed
    · exact absurd takeable (by simpa using untakeable n h)
    · rw [h]
    · have later : first.number < n.number := List.rel_of_pairwise_cons (List.pairwise_append.mp sorted).2.1 h
      exact absurd (highest first first_takeable) (by omega)

/-! ### What NOTICE answers -/

theorem BufferState.heldBy_eq (m : Master) (b : BufferState) : b.heldBy m = match b with
    | .owned o => decide (o = m)
    | .inJob o _ => decide (o = m)
    | .delivered pending holders => pending.get m || holders.get m
    | _ => false := by
  cases b <;> rfl

theorem notice_of_next_none {m : Master} {s : State} (h : (s.notices.get m).next = none) :
    notice m s = ⟨.ok, noticeResult m none s, s⟩ := by
  simp only [notice, h]

/-- Taking a source changes nothing that the summary speaks of, so that it is that of the state before (R155). -/
theorem notice_of_next_some {m : Master} {n : NoticeSource} {s : State} (h : (s.notices.get m).next = some n) :
    notice m s = ⟨.ok, noticeResult m (some n) s, { s with notices := s.notices.set m ((s.notices.get m).take n) }⟩ := by
  simp only [notice, h]
  rfl

/-- Settles O49: a request and a line flag copy by copy, ATTN# by the takeable sources, and NOTICE by whether there is one. -/
theorem noticeTakesTheHighest : Obligations.NoticeTakesTheHighest := by
  unfold Obligations.NoticeTakesTheHighest
  refine ⟨fun n m s => ?raised, fun f s => rfl, fun m s => ?_⟩
  case raised => cases n <;> exact ⟨rfl, rfl⟩
  intro holds line summary
  have state : s.line.state.byte = line := LineState.byte_eq _
  have held (b : BufferId) : (s.store.buffer b).state.heldBy m = holds b := BufferState.heldBy_eq ..
  have result (source : Option NoticeSource) : noticeResult m source s = summary
      (match source with | some n => BitVec.ofNat 8 n.number | none => 0)
      (if source = some .missed then (s.counters.get m).missed else 0) := by
    simp only [noticeResult, damagedHeld, state, held]
    rfl
  refine ⟨?attn, fun h => ⟨fun high => ?quiet, fun n takeable highest => ?taken⟩⟩
  case attn => simp only [attnLow_iff, Notices.takeable_iff]
  case quiet =>
    rw [exec_of_ready rfl rfl h, notice_of_next_none (next_of_attn_high high), result]
    rfl
  case taken =>
    rw [exec_of_ready rfl rfl h, notice_of_next_some (Notices.next_of_highest takeable highest), result]
    simp only [Option.some.injEq]
    rfl

/-! ### RELEASE, MASK and STATS -/

theorem release_of_not_range {b : Byte} (h : ¬(1 ≤ b.toNat ∧ b.toNat ≤ 5)) (m : Master) (s : State) :
    release m b s = refuse .badArg s := by
  simp only [release, NoticeSource.ofNumber_of_not_range h]

theorem release_of_number {b : Byte} {n : NoticeSource} (h : n.number = b.toNat) (m : Master) (s : State) :
    release m b s = if n ∈ (s.notices.get m).active then
        ⟨.ok, [], { s with notices := s.notices.set m ((s.notices.get m).drop n) }⟩
      else refuse .notActive s := by
  simp only [release, ← h, NoticeSource.ofNumber_number]
  rfl

/-- Settles O50: RELEASE by its argument and the active flag, MASK by its argument, STATS by its meaning. -/
theorem releaseMaskStats : Obligations.ReleaseMaskStats := by
  unfold Obligations.ReleaseMaskStats
  refine fun m s => ⟨fun b h => ⟨fun outside => ?_, fun n number => ?release⟩, fun b h => ?mask, fun h => ?_⟩
  · rw [exec_of_ready rfl rfl h, release_of_not_range outside]
    rfl
  case release =>
    rw [exec_of_ready rfl rfl h, release_of_number number]
    by_cases active : n ∈ (s.notices.get m).active
    · rw [if_pos active, if_pos active]
      rfl
    · rw [if_neg active, if_neg active]
      rfl
  case mask =>
    rw [exec_of_ready rfl rfl h, mask]
    by_cases high : 32 ≤ b.toNat
    · rw [if_pos high, if_pos high]
      rfl
    · rw [if_neg high, if_neg high]
      rfl
  · rw [exec_of_ready rfl rfl h]
    rfl

end Sys2Proof.Machine
end

section
/-!
PROOFS. The bytes of a command decode to the command that they spell, and every command's bytes decode to it (R163, R169 to R171).
-/

namespace Sys2Proof.Machine

/-! ### From a command to its bytes and back -/

/-- The bytes of a well-formed command are as many as its code and the counts in its arguments call for (R163). -/
theorem expectedArguments_of_commandBytes {i : Instr} {m : Master} {code : Byte} {args : List Byte} (hw : WellFormed i = true)
    (hb : commandBytes i = some (m, code, args)) : expectedArguments code args = some args.length := by
  cases i <;> simp only [commandBytes, Option.some.injEq, Prod.mk.injEq, reduceCtorEq] at hb <;> obtain ⟨rfl, rfl, rfl⟩ := hb
  case write => exact Laws.CommandComplete.write _ _ _ _ _ hw _ _ _ rfl
  case submit => exact Laws.CommandComplete.submit _ _ _ hw _ _ _ rfl
  all_goals rfl

/-- A well-formed command is read back from its bytes. -/
theorem decodeCommand_of_commandBytes {i : Instr} {m : Master} {code : Byte} {args : List Byte} (hw : WellFormed i = true)
    (hb : commandBytes i = some (m, code, args)) : decodeCommand m code args = some i := by
  have complete := expectedArguments_of_commandBytes hw hb
  cases i <;> simp only [commandBytes, Option.some.injEq, Prod.mk.injEq, reduceCtorEq] at hb <;> obtain ⟨rfl, rfl, rfl⟩ := hb
  case lineSet m r =>
    change Option.map (Instr.lineSet m) (settingsOfBytes (bytesOfSettings r)) = _
    rw [settingsOfBytes_bytesOfSettings, Option.map_some]
  case free m b =>
    change some (Instr.free m (halfOf _ _)) = _
    rw [halfOf_halfBytes]
  case adopt m b =>
    change some (Instr.adopt m (halfOf _ _)) = _
    rw [halfOf_halfBytes]
  case write m b o c data =>
    refine (if_pos complete).trans ?_
    change some (Instr.write m (halfOf _ _) (halfOf _ _) (halfOf _ _) data) = _
    rw [halfOf_halfBytes, halfOf_halfBytes, halfOf_halfBytes]
  case read m b o c =>
    change some (Instr.read m (halfOf _ _) (halfOf _ _) (halfOf _ _)) = _
    rw [halfOf_halfBytes, halfOf_halfBytes, halfOf_halfBytes]
  case scrub m b =>
    change some (Instr.scrub m (halfOf _ _)) = _
    rw [halfOf_halfBytes]
  case submit m count orders =>
    refine (if_pos complete).trans ?_
    change some (Instr.submit m count (ordersOfBytes _)) = _
    rw [ordersOfBytes_flatMap]
  all_goals rfl

/-! ### The commands that bytes spell -/

/-- Some well-formed command has these bytes. -/
def Spelled (m : Master) (code : Byte) (args : List Byte) : Prop :=
  ∃ i, WellFormed i = true ∧ commandBytes i = some (m, code, args)

section

variable {m : Master} {code : Byte} {args : List Byte}

theorem Spelled.of_none (i : Instr) (spells : WellFormed i = true ∧ commandBytes i = some (m, code, []))
    (h : some 0 = some args.length) : Spelled m code args := by
  obtain rfl := List.length_eq_zero_iff.mp (Option.some.inj h).symm
  exact ⟨i, spells⟩

theorem Spelled.of_byte (i : Byte → Instr) (spells : ∀ a, WellFormed (i a) = true ∧ commandBytes (i a) = some (m, code, [a]))
    (h : some 1 = some args.length) : Spelled m code args := by
  obtain ⟨a, rfl⟩ := List.length_eq_one_iff.mp (Option.some.inj h).symm
  exact ⟨i a, spells a⟩

theorem Spelled.of_half (i : Half → Instr)
    (spells : ∀ n, WellFormed (i n) = true ∧ commandBytes (i n) = some (m, code, halfBytes n))
    (h : some 2 = some args.length) : Spelled m code args := by
  obtain ⟨high, low, rfl⟩ := List.length_eq_two.mp (Option.some.inj h).symm
  rw [← halfBytes_halfOf]
  exact ⟨_, spells _⟩

end

/-- Bytes that begin with three two-byte values (R163). -/
theorem three_halves_of_length : ∀ {n : Nat} {args : List Byte}, args.length = n + 6 →
    ∃ b o c data, args = halfBytes b ++ halfBytes o ++ halfBytes c ++ data ∧ data.length = n
  | _, b1 :: b0 :: o1 :: o0 :: c1 :: c0 :: data, h => by
    refine ⟨halfOf b1 b0, halfOf o1 o0, halfOf c1 c0, data, ?_, Nat.add_right_cancel (m := 6) h⟩
    simp only [halfBytes_halfOf, List.cons_append, List.nil_append]

/-- Fourteen bytes are those of a shared settings record (R170). -/
theorem settings_of_length : ∀ {args : List Byte}, args.length = 14 → ∃ r, args = bytesOfSettings r
  | [mode, code, p1, p0, gap, turn, retry, tenure, silence, hold, listen, sync, reserve, patrol], _ => by
    refine ⟨⟨mode, code, halfOf p1 p0, gap, turn, retry, tenure, silence, hold, listen, sync, reserve, patrol⟩, ?_⟩
    simp only [bytesOfSettings, halfBytes_halfOf, List.cons_append, List.nil_append]

/-- Bytes in whole groups of four are those of orders (R171). -/
theorem orders_of_length : ∀ {n : Nat} {args : List Byte}, args.length = 4 * n →
    ∃ orders : List OrderBytes, args = orders.flatMap bytesOfOrder ∧ orders.length = n
  | 0, [], _ => ⟨[], rfl, rfl⟩
  | n + 1, code :: arg1 :: arg2 :: flags :: rest, h => by
    obtain ⟨orders, rfl, length⟩ := orders_of_length (n := n) (args := rest) (by simp only [List.length_cons] at h; omega)
    exact ⟨⟨code, arg1, arg2, flags⟩ :: orders, rfl, congrArg (· + 1) length⟩

theorem spelled_write (m : Master) {args : List Byte}
    (h : some (6 + writeDataLength (halfOf (args.getD 4 0) (args.getD 5 0))) = some args.length) : Spelled m 0x33 args := by
  obtain ⟨b, o, c, data, rfl, -⟩ := three_halves_of_length ((Option.some.inj h).symm.trans (Nat.add_comm ..))
  have complete := (expectedArguments_write b o c data).symm.trans h
  have length : data.length = writeDataLength c := by
    simp only [List.length_append, length_halfBytes, Option.some.injEq] at complete
    omega
  exact ⟨.write m b o c data, decide_eq_true length, rfl⟩

theorem spelled_submit (m : Master) {args : List Byte}
    (h : some (1 + 4 * submitOrderCount (args.getD 0 0)) = some args.length) : Spelled m 0x40 args := by
  cases args with
  | nil => cases Option.some.inj h
  | cons count rest =>
    obtain ⟨orders, rfl, length⟩ :=
      orders_of_length (n := submitOrderCount count) (Nat.add_right_cancel ((Option.some.inj h).symm.trans (Nat.add_comm ..)))
    exact ⟨.submit m count orders, decide_eq_true length, rfl⟩

/-- A byte is known by its value. -/
theorem byte_of_toNat {b : Byte} {n : Nat} (h : b.toNat = n) : b = BitVec.ofNat 8 n := by
  rw [← h, BitVec.ofNat_toNat, BitVec.setWidth_eq]

/-- A code of R169's table and the complete argument bytes that it calls for are those of a well-formed command, row by row. -/
theorem spelled_of_complete (m : Master) {code : Byte} {args : List Byte} (h : expectedArguments code args = some args.length) :
    Spelled m code args := by
  unfold expectedArguments at h
  split at h
  case h_33 => cases h
  all_goals
    rename_i value
    obtain rfl := byte_of_toNat value
  · exact .of_none (.ident m) ⟨rfl, rfl⟩ h
  · obtain ⟨q, t, b, rfl⟩ := List.length_eq_three.mp (Option.some.inj h).symm
    exact ⟨.portSet m q t b, rfl, rfl⟩
  · exact .of_none (.portGet m) ⟨rfl, rfl⟩ h
  · exact .of_none (.portReset m) ⟨rfl, rfl⟩ h
  · exact .of_none (.wantLine m) ⟨rfl, rfl⟩ h
  · exact .of_none (.unwantLine m) ⟨rfl, rfl⟩ h
  · obtain ⟨r, rfl⟩ := settings_of_length (Option.some.inj h).symm
    exact ⟨.lineSet m r, rfl, rfl⟩
  · exact .of_none (.lineGet m) ⟨rfl, rfl⟩ h
  · exact .of_none (.lineState m) ⟨rfl, rfl⟩ h
  · exact .of_none (.relearn m) ⟨rfl, rfl⟩ h
  · exact .of_byte (.claim m) (fun _ => ⟨rfl, rfl⟩) h
  · exact .of_byte (.drop m) (fun _ => ⟨rfl, rfl⟩) h
  · exact .of_byte (.join m) (fun _ => ⟨rfl, rfl⟩) h
  · exact .of_byte (.leave m) (fun _ => ⟨rfl, rfl⟩) h
  · exact .of_byte (.tableRead m) (fun _ => ⟨rfl, rfl⟩) h
  · exact .of_none (.alloc m) ⟨rfl, rfl⟩ h
  · exact .of_half (.free m) (fun _ => ⟨rfl, rfl⟩) h
  · exact .of_half (.adopt m) (fun _ => ⟨rfl, rfl⟩) h
  · exact spelled_write m h
  · obtain ⟨b, o, c, data, rfl, none_left⟩ := three_halves_of_length (n := 0) (Option.some.inj h).symm
    obtain rfl := List.length_eq_zero_iff.mp none_left
    exact ⟨.read m b o c, rfl, rfl⟩
  · exact .of_half (.scrub m) (fun _ => ⟨rfl, rfl⟩) h
  · exact .of_none (.storeStatus m) ⟨rfl, rfl⟩ h
  · exact spelled_submit m h
  · exact .of_byte (.cancel m) (fun _ => ⟨rfl, rfl⟩) h
  · exact .of_none (.takeCompletion m) ⟨rfl, rfl⟩ h
  · exact .of_none (.jobStatus m) ⟨rfl, rfl⟩ h
  · exact .of_none (.takeDelivery m) ⟨rfl, rfl⟩ h
  · exact .of_none (.notice m) ⟨rfl, rfl⟩ h
  · exact .of_byte (.release m) (fun _ => ⟨rfl, rfl⟩) h
  · exact .of_byte (.mask m) (fun _ => ⟨rfl, rfl⟩) h
  · exact .of_none (.stats m) ⟨rfl, rfl⟩ h
  · exact .of_none (.time m) ⟨rfl, rfl⟩ h

/-! ### Decoding -/

/-- Argument bytes that are not complete name no command (R163). -/
theorem decodeCommand_of_incomplete {m : Master} {code : Byte} {args : List Byte}
    (h : expectedArguments code args ≠ some args.length) : decodeCommand m code args = none := if_neg h

/-- Bytes decode to the one well-formed command that they spell. -/
theorem decodeCommand_eq_some_iff {m : Master} {code : Byte} {args : List Byte} {i : Instr} :
    decodeCommand m code args = some i ↔ WellFormed i = true ∧ commandBytes i = some (m, code, args) := by
  refine ⟨fun decoded => ?_, fun ⟨wellFormed, spells⟩ => decodeCommand_of_commandBytes wellFormed spells⟩
  by_cases complete : expectedArguments code args = some args.length
  · obtain ⟨j, wellFormed, spells⟩ := spelled_of_complete m complete
    obtain rfl : j = i := Option.some.inj ((decodeCommand_of_commandBytes wellFormed spells).symm.trans decoded)
    exact ⟨wellFormed, spells⟩
  · cases (decodeCommand_of_incomplete complete).symm.trans decoded

/-- Settles O54: complete bytes spell a command, which is the one they decode to. -/
theorem commandBytesDecode : Obligations.CommandBytesDecode := by
  unfold Obligations.CommandBytesDecode
  exact fun _ _ _ _ => decodeCommand_eq_some_iff

end Sys2Proof.Machine
end

section
/-!
PROOFS. The transaction of a port: its beginning and its end, the bytes before the last, the last byte, the answer during the
start-up clear (R162 to R168); PORT SET (R175).
-/

namespace Sys2Proof.Machine

/-! ### A byte that arrives -/

theorem exec_byteArrives (m : Master) (b : Byte) (s : State) : exec (.byteArrives m b) s = .next (byteArrives m b s) := rfl

/-- A code with a number of argument bytes stands in R169's table. -/
theorem isCommandCode_of_known {code : Byte} {n : Nat} (h : expectedArguments code [] = some n) : isCommandCode code = true := by
  rw [isCommandCode, h, Option.isSome_some]

theorem byteArrives_of_code {m : Master} {s : State} (h : (s.ports.get m).transaction = .code) (b : Byte) :
    byteArrives m b s = if isCommandCode b then takeOrCount m b [] s else answerUnknown m s := by
  simp only [byteArrives, h]

theorem byteArrives_of_arguments {m : Master} {code : Byte} {args : List Byte} {s : State}
    (h : (s.ports.get m).transaction = .arguments code args) (b : Byte) :
    byteArrives m b s = takeOrCount m code (args ++ [b]) s := by
  simp only [byteArrives, h]

/-- A port that is neither in CODE nor in ARGUMENTS takes no byte (R162). -/
theorem byteArrives_of_not_received {m : Master} {s : State} (h : (s.ports.get m).transaction.received = none) (b : Byte) :
    byteArrives m b s = s := by
  unfold byteArrives
  cases transaction : (s.ports.get m).transaction with
  | code | arguments => rw [transaction] at h; cases h
  | deselected | answer | spent => rfl

/-- Bytes that are not yet complete are counted (R163). -/
theorem takeOrCount_of_missing {code : Byte} {args : List Byte} {n : Nat} (known : expectedArguments code args = some n)
    (missing : args.length < n) (m : Master) (s : State) :
    takeOrCount m code args s = setTransaction m (.arguments code args) s := by
  have incomplete : expectedArguments code args ≠ some args.length := fun complete =>
    Nat.ne_of_lt missing (Option.some.inj (complete.symm.trans known))
  simp only [takeOrCount, decodeCommand_of_incomplete incomplete, Option.bind_none]

/-- The bytes of a well-formed command take it (R163). -/
theorem takeOrCount_of_commandBytes {i : Instr} {m : Master} {code : Byte} {args : List Byte} {effect : State → Reply}
    (hw : WellFormed i = true) (hb : commandBytes i = some (m, code, args)) (he : effectOf i = some effect) (s : State) :
    takeOrCount m code args s = takeCommand m effect s := by
  simp only [takeOrCount, decodeCommand_of_commandBytes hw hb, Option.bind_some, he]

theorem commandStep_of_awaits {m : Master} {code : Byte} {args : List Byte} {s : State}
    (h : awaits (s.ports.get m) code args = true) (effect : State → Reply) :
    commandStep m code args effect s = takeCommand m effect s := if_pos h

/-- What has arrived of a complete command is a beginning of it that is not the whole: the port awaits the rest (R163). -/
theorem awaits_of_received {p : Port} {code : Byte} {got left args : List Byte} (received : p.transaction.received = some got)
    (split : got ++ left = code :: args) (missing : left ≠ []) (complete : expectedArguments code args = some args.length) :
    awaits p code args = true := by
  have length := congrArg List.length split
  have some_left := List.length_pos_iff.mpr missing
  simp only [List.length_append, List.length_cons] at length
  simp only [awaits, received, ← split, complete, Bool.and_eq_true, List.isPrefixOf_iff_prefix, List.prefix_append,
    decide_eq_true_eq, decide_true, and_true, true_and]
  omega

/-! ### The transaction -/

/-- An answer whose first byte has been clocked out (R162, R164). -/
theorem clocked_answer_cons (x : Byte) (rest : List Byte) :
    (Transaction.answer (x :: rest)).clocked = if rest = [] then .spent else .answer rest := by
  cases rest <;> rfl

/-- Settles O4: SDO and the next state of the transaction are read off the port's state. -/
theorem transactionBeginsAndEnds : Obligations.TransactionBeginsAndEnds := by
  unfold Obligations.TransactionBeginsAndEnds
  refine ⟨fun m s => ⟨fun high => ?falls, rfl, fun h => ?deselected, fun h => ?code, fun _ _ h => ?arguments⟩,
    fun m x rest s h => ⟨?first, _, rfl, ?clocked, fun last => ?spent⟩⟩
  case falls =>
    rw [exec, execCsFalls, high]
    rfl
  case deselected => simp only [sdoOutput, h]
  case code => simp only [sdoOutput, h]
  case arguments => simp only [sdoOutput, h]
  case first => simp only [sdoOutput, h]
  case clocked => simp only [PerMaster.modify, h, clocked_answer_cons]
  case spent => simp only [sdoOutput, PerMaster.get_modify_self, h, clocked_answer_cons, last, if_true]

/-- Settles O5: by the port's state, and by whether the bytes are complete. -/
theorem bytesBeforeTheLast : Obligations.BytesBeforeTheLast := by
  unfold Obligations.BytesBeforeTheLast
  refine ⟨fun m b s => ⟨fun h n known some_missing => congrArg Host.Outcome.next ?code,
      fun code args n h known some_missing => congrArg Host.Outcome.next ?counts,
      fun h => congrArg Host.Outcome.next (byteArrives_of_not_received h b)⟩,
    fun m code s h unknown => ⟨congrArg Host.Outcome.next (if_pos ⟨h, unknown⟩), congrArg Host.Outcome.next ?unknown⟩⟩
  case code =>
    rw [byteArrives_of_code h, if_pos (isCommandCode_of_known known), takeOrCount_of_missing known some_missing]
    rfl
  case counts =>
    rw [byteArrives_of_arguments h, takeOrCount_of_missing known (List.length_append.trans_lt some_missing)]
    rfl
  case unknown =>
    rw [byteArrives_of_code h, if_neg (by simp [unknown])]
    rfl

/-- Settles O6: both ways the port has awaited the byte, and the bytes decode to the command. -/
theorem lastByteTakesTheCommand : Obligations.LastByteTakesTheCommand := by
  unfold Obligations.LastByteTakesTheCommand
  refine ⟨fun i m code b args s wellFormed spells h => ?_, fun i m code s wellFormed spells h => ?_⟩ <;>
    obtain ⟨effect, he⟩ := effectOf_of_commandBytes spells <;>
    have complete := expectedArguments_of_commandBytes wellFormed spells
  · have awaited : awaits (s.ports.get m) code (args ++ [b]) = true :=
      awaits_of_received (got := code :: args) (left := [b]) (by rw [h]; rfl) rfl (List.cons_ne_nil _ _) complete
    rw [exec_command spells he, commandStep_of_awaits awaited, exec_byteArrives, byteArrives_of_arguments h,
      takeOrCount_of_commandBytes wellFormed spells he]
  · have awaited : awaits (s.ports.get m) code [] = true :=
      awaits_of_received (got := []) (left := [code]) (by rw [h]; rfl) rfl (List.cons_ne_nil _ _) complete
    rw [exec_command spells he, commandStep_of_awaits awaited, exec_byteArrives, byteArrives_of_code h,
      if_pos (isCommandCode_of_known complete), takeOrCount_of_commandBytes wellFormed spells he]

/-- Settles O3: every command of a port goes through the one operation that answers NOT READY during the clear. -/
theorem notReadyDuringTheClear : Obligations.NotReadyDuringTheClear := by
  unfold Obligations.NotReadyDuringTheClear
  refine ⟨fun i m code args s spells clearing awaited => ?_, fun m status results s => rfl, by decide⟩
  obtain ⟨effect, he⟩ := effectOf_of_commandBytes spells
  rw [exec_command spells he, commandStep_of_clearing awaited clearing]

/-! ### PORT SET -/

/-- Every field of a port settings record's bytes lies in its range (R175). -/
abbrev PortSettingsAccepted (q t b : Byte) : Prop :=
  (1 ≤ q.toNat ∧ q.toNat ≤ 96) ∧ (1 ≤ t.toNat ∧ t.toNat ≤ 16) ∧ b.toNat ≤ 1

/-- The bytes of a port settings record are accepted exactly in their ranges, with the values that they spell (R175). -/
theorem portSettingsOf_eq_some {q t b : Byte} {r : PortSettings} :
    portSettingsOf q t b = some r ↔ PortSettingsAccepted q t b ∧ r = ⟨q.toNat, t.toNat, b.toNat = 1⟩ := by
  have one : b = 1 ↔ b.toNat = 1 := BitVec.toNat_inj.symm
  unfold portSettingsOf
  simp only [Option.bind_eq_bind, ↓Option.bind_eq_some_iff, ranged_eq_some, onOff_eq_some, one, Option.some.injEq]
  constructor
  · rintro ⟨_, ⟨quota, rfl⟩, _, ⟨threshold, rfl⟩, _, ⟨broadcast, rfl⟩, rfl⟩
    exact ⟨⟨quota, threshold, broadcast⟩, rfl⟩
  · rintro ⟨⟨quota, threshold, broadcast⟩, rfl⟩
    exact ⟨_, ⟨quota, rfl⟩, _, ⟨threshold, rfl⟩, _, ⟨broadcast, rfl⟩, rfl⟩

theorem portSet_of_accepted {q t b : Byte} (h : PortSettingsAccepted q t b) (m : Master) (s : State) :
    portSet m q t b s = ⟨.ok, [], setPortSettings m ⟨q.toNat, t.toNat, b.toNat = 1⟩ s⟩ := by
  rw [portSet, portSettingsOf_eq_some.mpr ⟨h, rfl⟩]

theorem portSet_of_refused {q t b : Byte} (h : ¬PortSettingsAccepted q t b) (m : Master) (s : State) :
    portSet m q t b s = refuse .badArg s := by
  have refused : portSettingsOf q t b = none :=
    Option.eq_none_iff_forall_ne_some.mpr fun r spelled => h (portSettingsOf_eq_some.mp spelled).1
  rw [portSet, refused]

/-- Settles O8: by whether the record is accepted. -/
theorem portSetWritesTheRecord : Obligations.PortSetWritesTheRecord := by
  unfold Obligations.PortSetWritesTheRecord
  intro m q t b s h
  rw [exec_of_ready rfl rfl h]
  by_cases accepted : PortSettingsAccepted q t b
  · rw [portSet_of_accepted accepted, if_pos accepted]
    rfl
  · rw [portSet_of_refused accepted, if_neg accepted]
    rfl

end Sys2Proof.Machine
end

section
/-!
PROOFS. The time base: the sync edge and the end of a microsecond (R177, R178).
-/

namespace Sys2Proof.Machine

/-- A sync edge is an edge of the polarity that the sync field selects; with SYNC off there is none (R178). -/
theorem SyncMode.selects_iff {mode : SyncMode} {edge : Edge} :
    mode.selects edge = true ↔ (mode = .rising ∧ edge = .rising) ∨ (mode = .falling ∧ edge = .falling) := by
  cases mode <;> simp [SyncMode.selects]

theorem countMicrosecond_of_clearing {s : State} (h : s.clearing = true) : countMicrosecond s = s := if_pos h

theorem countMicrosecond_of_not_clearing {s : State} (h : s.clearing = false) :
    countMicrosecond s = { s with timeBase := s.timeBase + 1 } := by
  rw [countMicrosecond, h, if_neg Bool.false_ne_true]

theorem exec_syncEdge (edge : Edge) (s : State) : exec (.syncEdge edge) s = .next
    (if s.clearing = false ∧ ((s.line.settings.sync = .rising ∧ edge = .rising) ∨
      (s.line.settings.sync = .falling ∧ edge = .falling)) then { s with timeBase := 0 } else s) := by
  rw [exec, execSyncEdge]
  simp only [Bool.and_eq_true, Bool.not_eq_true', SyncMode.selects_iff]

/-- With no attempt due, the end of a microsecond does nothing but count (R177; assumption log 17). -/
theorem exec_timeBaseIncrement {s : State} (h : Settled s) : exec .timeBaseIncrement s = .next (countMicrosecond s) := by
  rw [exec, execTimeBaseIncrement, takeAttempt_of_settled h]

/-- Settles O51: the edge by what the sync field selects, the increment by whether the part is in its start-up clear. -/
theorem timeBaseCounts : Obligations.TimeBaseCounts := by
  unfold Obligations.TimeBaseCounts
  refine fun s => ⟨fun edge => exec_syncEdge edge s, fun settled counting => ?counts, fun settled clearing => ?clear⟩
  case counts =>
    refine ⟨{ s with timeBase := s.timeBase + 1 }, ?_, rfl, BitVec.toNat_add s.timeBase 1⟩
    rw [exec_timeBaseIncrement settled, countMicrosecond_of_not_clearing counting]
  case clear => rw [exec_timeBaseIncrement settled, countMicrosecond_of_clearing clearing]

end Sys2Proof.Machine
end

section
/-!
PROOFS. A step of the part: the command at the front of the queue, the empty queue, and what `n` bit times do to each field of
the line, the wire and the running job (R48, R49, R78, R80, R123, R125; assumption log 4).
-/

namespace Sys2Proof.Machine

/-! ### The queue -/

theorem step_of_front (c : Instr) (rest : List Instr) (s : State) :
    step { s with pending := c :: rest } = exec c { s with pending := rest } := rfl

theorem step_of_empty_queue {s : State} (h : s.pending = []) : step s = .next (lineTime 1 (takeAttempt s)) := by
  rw [step, h]
  rfl

/-! ### `n` bit times -/

/-- The end gap's measurement is kept only while the line is in use, and counts once RXD is 1 again (R48). -/
theorem Line.idleAfter_eq (l : Line) (n : Nat) :
    l.idleAfter n = if l.state = .down then l.idle else min 341 (l.idle + (n - l.low)) := by
  cases h : l.state <;> simp [Line.idleAfter, h, idleCap, Config.bitsPerCt]

/-- The access gap's measurement is kept only while the line is in use, and counts at once (R48). -/
theorem Line.accessAfter_eq (l : Line) (n : Nat) :
    l.accessAfter n = if l.state = .down then l.access else min 341 (l.access + n) := by
  cases h : l.state <;> simp [Line.accessAfter, h, idleCap, Config.bitsPerCt]

/-- Settles O1: the queue's two cases, then the fields that time moves. The two idle measurements have a rule each, the line's
state is split, and the wire, the running job and the hold entries run down by definition. -/
theorem stepTakesTheFront : Obligations.StepTakesTheFront := by
  unfold Obligations.StepTakesTheFront
  refine ⟨step_of_front, fun s h => step_of_empty_queue h, fun n s => ?time⟩
  case time =>
    rw [lineTime, Line.idleAfter_eq, Line.accessAfter_eq]
    cases s.line.state <;> rfl

end Sys2Proof.Machine
end
